-- ==== Sys2Proof/Word.lean ====
section
/-! DEFINITION. The two word types of the Frame Codec (00_scope.md R9, 30_encoding.md R44). -/

namespace Sys2Proof

/-- A byte: an 8-bit unsigned value, bit 0 the least significant (R9).
Every field of every frame is exactly one byte (R66). -/
abbrev Byte := BitVec 8

/-- A request header word `req.hdr[15:0]` (R44). -/
abbrev Header := BitVec 16

end Sys2Proof
end

