-- ==== Sys2Proof/Syntax.lean ====
section
/-! DEFINITION. Requests as the host issues them, and the four operations they stand for. -/

namespace Sys2Proof

/-- One request on the request channel (10_state.md R13).
A listing writes it `hdr : data` (30_encoding.md R67). -/
structure Request where
  /-- `req.hdr`, the 16-bit request header word (R44). -/
  hdr : Header
  /-- `req.data`, a byte sequence of any length (R65). -/
  data : List Byte
deriving DecidableEq, Repr

/-- The four operations, one constructor per row of opcode_table.json, each with its operands (R45).
The operand types admit exactly the operands of the spec: a register address is 8 bits (R44, R76),
a payload or received frame is a byte sequence of any length (R65).
Every term of this type is therefore well-formed. -/
inductive Instr where
  /-- ENCR `<reg>`: build the read command of register `reg` (R71). -/
  | encr (reg : Byte)
  /-- ENCW `<reg>, [payload]`: build the write command of register `reg` (R72). -/
  | encw (reg : Byte) (payload : List Byte)
  /-- DECR `<reg>, {frame}`: check a read response against the expected register `reg` (R79). -/
  | decr (reg : Byte) (frame : List Byte)
  /-- DECW `{frame}`: check a write acknowledge (R88). -/
  | decw (frame : List Byte)
deriving DecidableEq, Repr

/-- Why a request has no meaning: the four reserved request encodings of R46. -/
inductive Reserved where
  /-- `OP` is 0x0 or 0x5–0xF. -/
  | operation
  /-- `RSV` is not 0. -/
  | bits
  /-- DECW with `REG` other than 0x00. -/
  | ackRegister
  /-- ENCR with a non-empty `req.data`. -/
  | readCommandData
deriving DecidableEq, Repr

end Sys2Proof
end

