-- ==== Sys2Proof/Machine/Header.lean ====
section
/-! DEFINITION. The fields of a request header word and the operation codes (30_encoding.md R44, R45). -/

namespace Sys2Proof

/-- `OP = hdr[15:12]` (R44). -/
def Request.op (q : Request) : BitVec 4 := q.hdr.extractLsb' 12 4

/-- `RSV = hdr[11:8]` (R44). -/
def Request.rsv (q : Request) : BitVec 4 := q.hdr.extractLsb' 8 4

/-- `REG = hdr[7:0]` (R44). -/
def Request.reg (q : Request) : Byte := q.hdr.extractLsb' 0 8

/-- `OP` of ENCR (R45). -/
def opEncr : BitVec 4 := 0x1#4

/-- `OP` of ENCW (R45). -/
def opEncw : BitVec 4 := 0x2#4

/-- `OP` of DECR (R45). -/
def opDecr : BitVec 4 := 0x3#4

/-- `OP` of DECW (R45). -/
def opDecw : BitVec 4 := 0x4#4

/-- The header word with the given `OP` and `REG`, and `RSV` = 0000 (R44). -/
def headerOf (op : BitVec 4) (reg : Byte) : Header := op.setWidth 16 <<< 12 ||| reg.setWidth 16

end Sys2Proof
end

