-- ==== Sys2Proof/WellFormed.lean ====
section
/-! DEFINITION. Which requests are admitted: none of the reserved encodings of 30_encoding.md R46.

`Instr` itself needs no check: its operand types admit exactly the spec's operands. -/

namespace Sys2Proof

/-- `OP` names one of the four operations (R45, R46). -/
def Request.opWf (q : Request) : Bool :=
  q.op == opEncr || q.op == opEncw || q.op == opDecr || q.op == opDecw

/-- The reserved field is 0000 (R44, R46). -/
def Request.rsvWf (q : Request) : Bool := q.rsv == 0#4

/-- A DECW has `REG` = 0x00 (R46). -/
def Request.ackRegisterWf (q : Request) : Bool := q.op != opDecw || q.reg == 0#8

/-- An ENCR has an empty `req.data` (R46). -/
def Request.readCommandDataWf (q : Request) : Bool := q.op != opEncr || q.data.isEmpty

/-- The request is admitted: no reserved encoding of R46 applies. -/
def Request.wf (q : Request) : Bool :=
  q.opWf && q.rsvWf && q.ackRegisterWf && q.readCommandDataWf

end Sys2Proof
end

