-- ==== Sys2Proof/Decode.lean ====
section
/-! DEFINITION. The request decoder, total on every request and refusing by name; the encoder; the opcode table. -/

namespace Sys2Proof

/-- The operation a request stands for, or the reserved encoding it is (30_encoding.md R44 to R46).
A request that is reserved for several reasons is refused under the first of them in this order:
`RSV`, `OP`, the operation's own condition. DESIGN CHOICE, assumption log 6. -/
def decode (q : Request) : Except Reserved Instr :=
  if q.rsv ≠ 0#4 then .error .bits
  else if q.op = opEncr then
    if q.data.isEmpty then .ok (.encr q.reg) else .error .readCommandData
  else if q.op = opEncw then .ok (.encw q.reg q.data)
  else if q.op = opDecr then .ok (.decr q.reg q.data)
  else if q.op = opDecw then
    if q.reg = 0#8 then .ok (.decw q.data) else .error .ackRegister
  else .error .operation

/-- The request that issues an operation (R62). -/
def encode : Instr → Request
  | .encr reg => ⟨headerOf opEncr reg, []⟩
  | .encw reg payload => ⟨headerOf opEncw reg, payload⟩
  | .decr reg frame => ⟨headerOf opDecr reg, frame⟩
  | .decw frame => ⟨headerOf opDecw 0#8, frame⟩

/-- A row of opcode_table.json: a header `h` belongs to it when `h AND mask = value` (R68). -/
structure OpcodeRow where
  mnemonic : String
  value : Header
  mask : Header
deriving DecidableEq, Repr

/-- The rows of opcode_table.json, in its order (R68). -/
def opcodeTable : List OpcodeRow :=
  [⟨"ENCR", 0x1000, 0xFF00⟩, ⟨"ENCW", 0x2000, 0xFF00⟩, ⟨"DECR", 0x3000, 0xFF00⟩, ⟨"DECW", 0x4000, 0xFFFF⟩]

/-- The header belongs to the row (R68). -/
def OpcodeRow.selects (row : OpcodeRow) (h : Header) : Bool := h &&& row.mask == row.value

/-- The request whose bits, numbered as opcode_table.json numbers them, are the low `nbits` bits of `w`:
bits 15..0 are the header, and each further eight bits are the next byte of `req.data`.
With 16 bits `req.data` is empty. DESIGN CHOICE, assumption log 2. -/
def Request.ofTableWord (nbits w : Nat) : Request :=
  let bits := w % 2 ^ nbits
  ⟨BitVec.ofNat 16 bits,
    (List.range ((nbits - 16) / 8)).map fun k => BitVec.ofNat 8 (bits >>> (16 + 8 * k))⟩

/-- What the decoder reads from a word numbered as opcode_table.json numbers it. -/
def decodeTableWord (nbits w : Nat) : Option Instr :=
  (decode (Request.ofTableWord nbits w)).toOption

end Sys2Proof
end

