-- ==== Sys2Proof/Machine/Constants.lean ====
section
/-! DEFINITION. The named constants of the frame formats (30_encoding.md R47, R48) and DECR's masks (R56).

The spec calls the literals normative but unaudited and asks for one table of them (00_scope.md R8). -/

namespace Sys2Proof.Machine

/-- `SYNC_RD_CMD`: read command, bytes 0–2. -/
def syncRdCmd : Byte := 0x50#8

/-- `SYNC_WR_CMD`: write command, bytes 0–2. -/
def syncWrCmd : Byte := 0x52#8

/-- `SYNC_RESP`: read response, bytes 0–2. -/
def syncResp : Byte := 0x52#8

/-- `TERM`: the last two bytes of every command and of the read response. -/
def terminator : Byte := 0xAA#8

/-- `ACK`: all three bytes of the write response. -/
def ackByte : Byte := 0x11#8

/-- `RESP_ADDR`: read response byte 3. -/
def respAddr : Byte := 0x00#8

/-- `RESP_ADDR_C`: read response byte 4. -/
def respAddrC : Byte := 0xFF#8

/-- `RESP_LEN`: read response byte 7. -/
def respLen : Byte := 0x04#8

/-- `RESP_LEN_C`: read response byte 8. -/
def respLenC : Byte := 0xFB#8

/-- `MAX_PAYLOAD`: the bound of ENCW's range check. -/
def maxPayload : Nat := 255

/-- The largest register address (R37), the bound of ENCW's unreachable parameter check (R72, R76). -/
def maxRegister : Nat := 255

/-- The length of a read response (R48, R54). -/
def readResponseLength : Nat := 19

/-- `M_FRAME`: sync, length and terminator (R56). -/
def mFrame : List Byte :=
  [0xFF, 0xFF, 0xFF, 0, 0, 0, 0, 0xFF, 0xFF, 0, 0, 0, 0, 0, 0, 0, 0, 0xFF, 0xFF]

/-- `M_ADDR`: the address field (R56). -/
def mAddr : List Byte :=
  [0, 0, 0, 0xFF, 0xFF, 0, 0, 0, 0, 0, 0, 0, 0, 0, 0, 0, 0, 0, 0]

/-- `M_REG`: the register echo and its complement (R56, R83). -/
def mReg : List Byte :=
  [0, 0, 0, 0, 0, 0xFF, 0xFF, 0, 0, 0, 0, 0, 0, 0, 0, 0, 0, 0, 0]

end Sys2Proof.Machine
end

