-- ==== Sys2Proof/Machine/Operands.lean ====
section
/-! DEFINITION. Operand forms: complements, pairs, the length byte, the template and the masked comparison. -/

namespace Sys2Proof.Machine

/-- `comp(v) = v XOR 0xFF` (00_scope.md R10). -/
def comp (v : Byte) : Byte := v ^^^ 0xFF#8

/-- The complement pair `pair(v) = [v, comp(v)]` (40_encoder.md R69). -/
def pair (v : Byte) : List Byte := [v, comp v]

/-- `byte(L)` of a length, used for L ≤ 255 only (00_scope.md R9, 30_encoding.md R53). -/
def byteOf (L : Nat) : Byte := BitVec.ofNat 8 L

/-- The read response template `T(r)` (30_encoding.md R57).
Bytes 9–16 are 0 and no mask selects them. -/
def template (r : Byte) : List Byte :=
  [syncResp, syncResp, syncResp, respAddr, respAddrC, r, comp r, respLen, respLenC,
    0, 0, 0, 0, 0, 0, 0, 0, terminator, terminator]

/-- A sequence with each byte ANDed with the mask byte at its position. -/
def masked (F M : List Byte) : List Byte := List.zipWith (· &&& ·) F M

/-- `masked_eq(F, T, M)` (41_decoder.md, opening; R57): F and T agree in every bit the mask selects.
DECR uses it on 19-byte sequences only (R80). -/
def maskedEq (F T M : List Byte) : Bool := masked F M == masked T M

/-- The bytes at even positions of a sequence, and those at odd positions: "alternating position" (R84). -/
def splitAlternating : List Byte → List Byte × List Byte
  | d :: c :: rest => (d :: (splitAlternating rest).1, c :: (splitAlternating rest).2)
  | [d] => ([d], [])
  | [] => ([], [])

end Sys2Proof.Machine
end

