-- ==== Sys2Proof/Config.lean ====
section
/-! DEFINITION. What an instance of the block fixes and the spec leaves OPEN (00_scope.md R7). -/

namespace Sys2Proof

/-- `DEVICE_ADDR` of this instance (R7, R18, D3).
OPEN: any value 0x00–0xFF, fixed at instantiation.
It has no body, so no proof can see its value. Safe; assumption log 1. -/
opaque Config.deviceAddr : Byte

end Sys2Proof
end

