-- ==== Sys2Proof/Machine/State.lean ====
section
/-! DEFINITION. The state of the machine, its results, and the reasons a step can stop. -/

namespace Sys2Proof.Machine

/-- The error kinds of the closed enumeration (60_exceptions.md R93), in the order of their codes. -/
inductive ErrorKind where
  /-- "address/register/length out of declared numeric range"; unreachable in this block (R76). -/
  | invalidParameter
  /-- The payload length of an ENCW is odd (R72). -/
  | oddPayload
  /-- The payload length of an ENCW is even and over 255 (R72). -/
  | payloadTooLarge
  /-- Length, marker or terminator mismatch of a read response (R80, R81). -/
  | invalidFrame
  /-- Address field mismatch of a read response (R82). -/
  | invalidAddress
  /-- Register field mismatch of a read response (R83). -/
  | invalidRegisterEcho
  /-- A data complement is wrong in a read response (R84). -/
  | invalidComplement
  /-- Write acknowledge mismatch (R88). -/
  | invalidResponse
deriving DecidableEq, Repr

/-- `res.status`: `OK` or one error kind (10_state.md R13). -/
inductive Status where
  | ok
  | err (kind : ErrorKind)
deriving DecidableEq, Repr

/-- What the result channel carries for one transaction (R13). -/
structure Response where
  /-- `res.status` (R13, R93). -/
  status : Status
  /-- `res.data`: a command frame, the 4 data bytes, or nothing (R13). -/
  data : List Byte
deriving DecidableEq, Repr

/-- The machine at the boundary between two transactions.

The block itself keeps nothing from one transaction to the next (R14): only `deviceAddr` is the
block's own, and no operation writes it. The other fields are the two channels (R13) and the host's
transaction index (R16). The frame buffers live inside one transaction only (R21), so they are
values of the operations and no field here. -/
structure State where
  /-- `DEVICE_ADDR` (R18): the configuration parameter, read by ENCR and ENCW, written by nothing. -/
  deviceAddr : Byte
  /-- The request channel with the host's program behind it (R13, R16): the transactions still to be
  performed, in the host's order; the head is the request the next step takes. Assumption log 2. -/
  requests : List Request
  /-- The result channel (R13): the result of the latest completed transaction, `none` before the
  first. No operation reads it. Assumption log 4. -/
  res : Option Response
  /-- The host's transaction index `t` (R16): how many transactions have completed. Assumption log 5. -/
  t : Nat
deriving DecidableEq, Repr

/-- The faults of the block: there are none, so no constructor.
60_exceptions.md R104: "A model fault has no case in this block". Assumption log 7. -/
inductive Fault where
deriving DecidableEq, Repr

/-- Why a step is refused. -/
inductive Refusal where
  /-- Raised by `exec` for an instruction that has no meaning yet; no arm does. Safe. -/
  | notModelled (mnemonic : String)
  /-- Raised by `step` for a reserved request encoding, to which the spec gives no meaning (R46).
  Safe: the run ends, with no result (D20 "Toward unprovable"). Assumption log 6. -/
  | reservedRequest (why : Reserved)
deriving DecidableEq, Repr

/-- The machine right after reset or instantiation (10_state.md R24, 70_reset_and_hazards.md R111):
`DEVICE_ADDR` at its instantiation value, nothing on either channel, `t` = 0. -/
def State.reset : State where
  deviceAddr := Config.deviceAddr
  requests := []
  res := none
  t := 0

end Sys2Proof.Machine
end

