-- ==== Sys2Proof/Machine/Ops.lean ====
section
/-! DEFINITION. The operations every meaning shares: the frame buffers, the two channels, an error, a reset. -/

namespace Sys2Proof.Machine

/-- `MemRead(F, i, n)`: the bytes `F[i], …, F[i+n-1]`, defined only when `i + n ≤ len(F)`
(00_scope.md R10, 20_memory.md R28). -/
def memRead (F : List Byte) (i n : Nat) : Option (List Byte) :=
  if i + n ≤ F.length then some ((F.drop i).take n) else none

/-- `MemWrite(O, v)`: append `v` to the output buffer (00_scope.md R10, 20_memory.md R27). -/
def memWrite (O v : List Byte) : List Byte := O ++ v

/-- Put the result of the current transaction on the result channel and advance the transaction
index, `pc <- t + 1` (10_state.md R13, R16). -/
def deliver (status : Status) (data : List Byte) (s : State) : State :=
  { s with res := some ⟨status, data⟩, t := s.t + 1 }

/-- `return v`: the operation ends with `OK` and the result `v` (00_scope.md R10). -/
def returnOk (data : List Byte) (s : State) : Host.Outcome State Fault Refusal :=
  .next (deliver .ok data s)

/-- `raise E`: the operation ends with error kind `E`, with no output and no data, and the machine
goes on with the next transaction (00_scope.md R10, 60_exceptions.md R96, R100).
This is all that "taking an exception" is here: no state is saved, no mode changes, no vector is
taken, and the return from an error is simply the next transaction (R101). -/
def raiseError (kind : ErrorKind) (s : State) : Host.Outcome State Fault Refusal :=
  .next (deliver (.err kind) [] s)

/-- End a transaction with the result its operation computed, `OK(result)` or `ERR(kind)` (R11). -/
def respond (result : Except ErrorKind (List Byte)) (s : State) : Host.Outcome State Fault Refusal :=
  match result with
  | .ok data => returnOk data s
  | .error kind => raiseError kind s

/-- Take the next request from the request channel (R13, R16); `none` when the host has none to perform. -/
def fetch (s : State) : Option (Request × State) :=
  match s.requests with
  | [] => none
  | q :: rest => some (q, { s with requests := rest })

/-- With no request there is no transaction, and nothing changes. DESIGN CHOICE, assumption log 3. -/
def idle (s : State) : Host.Outcome State Fault Refusal := .next s

/-- A request of reserved encoding is refused, and no `res.status` is produced (30_encoding.md R46). -/
def refuseReserved (why : Reserved) : Host.Outcome State Fault Refusal :=
  .refused (.reservedRequest why)

/-- A reset from outside, between two transactions (70_reset_and_hazards.md R111, R112): requests not
yet started are not performed, neither channel holds anything, and `DEVICE_ADDR` and the host's
index stay. It is an input of the host and no step takes it. Assumption log 8. -/
def blockReset (s : State) : State := { s with requests := [], res := none }

end Sys2Proof.Machine
end

