-- ==== Sys2Proof/Machine/Decoder.lean ====
section
/-! DEFINITION. The frame decoder and validator: DECR and DECW (41_decoder.md). -/

namespace Sys2Proof.Machine

/-- DECR's final step on the 8 bytes at 9–16 (41_decoder.md R84, R85): every complement must match
its data byte, and the data bytes are the result. -/
def checkComplements (trailing : List Byte) : Except ErrorKind (List Byte) :=
  let (data, complements) := splitAlternating trailing
  if complements = data.map comp then .ok data else .error .invalidComplement

/-- DECR's checks in their order (41_decoder.md R79): length, frame markers, address, register echo,
complements. The read of bytes 9–16 is defined once the length is 19 (20_memory.md R28), so the last
arm is never reached. -/
def decodeReadResponse (r : Byte) (F : List Byte) : Except ErrorKind (List Byte) :=
  if F.length ≠ readResponseLength then .error .invalidFrame
  else if !maskedEq F (template r) mFrame then .error .invalidFrame
  else if !maskedEq F (template r) mAddr then .error .invalidAddress
  else if !maskedEq F (template r) mReg then .error .invalidRegisterEcho
  else match memRead F 9 8 with
    | some trailing => checkComplements trailing
    | none => .error .invalidFrame

/-- DECR (41_decoder.md R79). It does not read `DEVICE_ADDR` (R92). -/
def execDecr (reg : Byte) (frame : List Byte) (s : State) : Host.Outcome State Fault Refusal :=
  respond (decodeReadResponse reg frame) s

/-- DECW's one check: the frame is exactly the acknowledge (41_decoder.md R88, 30_encoding.md R55). -/
def decodeWriteResponse (F : List Byte) : Except ErrorKind (List Byte) :=
  if F ≠ [ackByte, ackByte, ackByte] then .error .invalidResponse else .ok []

/-- DECW (41_decoder.md R88). It reads neither `DEVICE_ADDR` nor a register (R88, R92). -/
def execDecw (frame : List Byte) (s : State) : Host.Outcome State Fault Refusal :=
  respond (decodeWriteResponse frame) s

end Sys2Proof.Machine
end

