-- ==== Sys2Proof/Machine/Encoder.lean ====
section
/-! DEFINITION. The frame encoder: ENCR and ENCW (40_encoder.md). -/

namespace Sys2Proof.Machine

/-- The read command of register `r` for device address `a` (40_encoder.md R71, 30_encoding.md R50). -/
def encodeRead (a r : Byte) : List Byte :=
  let o := memWrite [] (List.replicate 3 syncRdCmd)
  let o := memWrite o (pair a)
  let o := memWrite o (pair r)
  memWrite o [terminator, terminator]

/-- ENCR (40_encoder.md R71): it raises no error. -/
def execEncr (reg : Byte) (s : State) : Host.Outcome State Fault Refusal :=
  returnOk (encodeRead s.deviceAddr reg) s

/-- The write command of register `r` and payload `P` for device address `a`
(40_encoder.md R72, 30_encoding.md R51, R52). -/
def writeCommand (a r : Byte) (P : List Byte) : List Byte :=
  let o := memWrite [] (List.replicate 3 syncWrCmd)
  let o := memWrite o (pair a)
  let o := memWrite o (pair r)
  let o := memWrite o (pair (byteOf P.length))
  let o := memWrite o (P.flatMap pair)
  memWrite o [terminator, terminator]

/-- ENCW's checks in their order (40_encoder.md R72, R73), then its frame.
The first check is the source's "explicit contract" and cannot fail for a byte (R76). -/
def encodeWrite (a r : Byte) (P : List Byte) : Except ErrorKind (List Byte) :=
  if maxRegister < r.toNat then .error .invalidParameter
  else if P.length % 2 = 1 then .error .oddPayload
  else if maxPayload < P.length then .error .payloadTooLarge
  else .ok (writeCommand a r P)

/-- ENCW (40_encoder.md R72). -/
def execEncw (reg : Byte) (payload : List Byte) (s : State) : Host.Outcome State Fault Refusal :=
  respond (encodeWrite s.deviceAddr reg payload) s

end Sys2Proof.Machine
end

