-- ==== Sys2Proof/Machine/Dispatch.lean ====
section
/-! DEFINITION. The meaning of each operation, one arm per row of opcode_table.json (30_encoding.md R45). -/

namespace Sys2Proof.Machine

def exec (i : Instr) (s : State) : Host.Outcome State Fault Refusal :=
  match i with
  | .encr reg => Sys2Proof.Machine.execEncr reg s
  | .encw reg payload => Sys2Proof.Machine.execEncw reg payload s
  | .decr reg frame => Sys2Proof.Machine.execDecr reg frame s
  | .decw frame => Sys2Proof.Machine.execDecw frame s

end Sys2Proof.Machine
end

