-- ==== Sys2Proof/Machine/Step.lean ====
section
/-! DEFINITION. One step of the machine is one transaction (20_memory.md R34, R40). -/

namespace Sys2Proof.Machine

/-- Take the next request, decode it and perform its operation.
A reserved request is refused (30_encoding.md R46); without a request nothing happens. -/
def step (s : State) : Host.Outcome State Fault Refusal :=
  match fetch s with
  | none => idle s
  | some (q, s') =>
    match decode q with
    | .ok i => exec i s'
    | .error why => refuseReserved why

/-- The state whose next request is the one with the given table bits; the rest is unchanged.
Assumption log 2 says how a program comes to run from reset. -/
def State.withFetchWord (s : State) (nbits w : Nat) : State :=
  { s with requests := Request.ofTableWord nbits w :: s.requests.tail }

end Sys2Proof.Machine
end

