-- ==== Sys2Proof/Machine/Flags.lean ====
section
/-! DEFINITION. The status codes of 60_exceptions.md R93.

The block has no flags and no condition codes (10_state.md R17); `res.status` is all it reports. -/

namespace Sys2Proof.Machine

/-- The 4-bit code that carries a status in `res.status` (R93). -/
def Status.code : Status → BitVec 4
  | .ok => 0
  | .err .invalidParameter => 1
  | .err .oddPayload => 2
  | .err .payloadTooLarge => 3
  | .err .invalidFrame => 4
  | .err .invalidAddress => 5
  | .err .invalidRegisterEcho => 6
  | .err .invalidComplement => 7
  | .err .invalidResponse => 8

/-- The status of a code; `none` for 9–15, which are never produced (R93). -/
def Status.ofCode (c : BitVec 4) : Option Status :=
  match c.toNat with
  | 0 => some .ok
  | 1 => some (.err .invalidParameter)
  | 2 => some (.err .oddPayload)
  | 3 => some (.err .payloadTooLarge)
  | 4 => some (.err .invalidFrame)
  | 5 => some (.err .invalidAddress)
  | 6 => some (.err .invalidRegisterEcho)
  | 7 => some (.err .invalidComplement)
  | 8 => some (.err .invalidResponse)
  | _ => none

end Sys2Proof.Machine
end

