-- ==== Sys2Proof/Safety.lean ====
section
/-! DEFINITION. What the claims say of frames, results and runs, in the spec's terms and apart from the
functions that compute them. -/

namespace Sys2Proof.Safety

open Sys2Proof.Machine

/-- Position `p` of the frame holds a value and position `p + 1` its complement (30_encoding.md R49). -/
def PairAt (O : List Byte) (p : Nat) : Prop := ∃ v, O[p]? = some v ∧ O[p + 1]? = some (v ^^^ 0xFF)

/-- The frame has the layout of a read command for device address `a` (30_encoding.md R50). -/
def ReadCommandFrame (a : Byte) (O : List Byte) : Prop :=
  O.length = 9 ∧ O.take 3 = [0x50, 0x50, 0x50] ∧ O[3]? = some a ∧ PairAt O 3 ∧ PairAt O 5 ∧
    O.drop 7 = [0xAA, 0xAA]

/-- The frame has the layout of a write command for device address `a` with `L` payload bytes
(30_encoding.md R51). -/
def WriteCommandFrame (a : Byte) (L : Nat) (O : List Byte) : Prop :=
  O.length = 11 + 2 * L ∧ O.take 3 = [0x52, 0x52, 0x52] ∧ O[3]? = some a ∧
    O[7]? = some (BitVec.ofNat 8 L) ∧ PairAt O 3 ∧ PairAt O 5 ∧ PairAt O 7 ∧
    (∀ j < L, PairAt O (9 + 2 * j)) ∧ O.drop (9 + 2 * L) = [0xAA, 0xAA]

/-- The sync bytes, the length field and the terminator of a read response are right (41_decoder.md R81). -/
def MarkersOk (F : List Byte) : Prop :=
  F.take 3 = [0x52, 0x52, 0x52] ∧ (F.drop 7).take 2 = [0x04, 0xFB] ∧ F.drop 17 = [0xAA, 0xAA]

/-- The address field of a read response is the constant 00 FF (41_decoder.md R82). -/
def AddressOk (F : List Byte) : Prop := (F.drop 3).take 2 = [0x00, 0xFF]

/-- The register echo of a read response is `r` and its complement (41_decoder.md R83). -/
def EchoOk (r : Byte) (F : List Byte) : Prop := (F.drop 5).take 2 = [r, r ^^^ 0xFF]

/-- The four data pairs of a read response are complement pairs (41_decoder.md R84). -/
def ComplementsOk (F : List Byte) : Prop := ∀ k < 4, PairAt F (9 + 2 * k)

/-- The read response of register `r` with data `d0 d1 d2 d3` (30_encoding.md R54, 41_decoder.md R90). -/
def readResponse (r d0 d1 d2 d3 : Byte) : List Byte :=
  [0x52, 0x52, 0x52, 0x00, 0xFF, r, r ^^^ 0xFF, 0x04, 0xFB, d0, d0 ^^^ 0xFF, d1, d1 ^^^ 0xFF,
    d2, d2 ^^^ 0xFF, d3, d3 ^^^ 0xFF, 0xAA, 0xAA]

/-- The transaction completes, and the result channel carries this status and this data (10_state.md R13). -/
def Answers (outcome : Host.Outcome State Fault Refusal) (status : Status) (data : List Byte) : Prop :=
  ∃ s', outcome = .next s' ∧ s'.res = some ⟨status, data⟩

/-- A result the block may deliver: an error is one of the seven reachable kinds and carries no data
(60_exceptions.md R93, R96); an `OK` carries nothing, 4 bytes, a read command, or a write command
with an even payload of at most 254 bytes (10_state.md R13, 20_memory.md R33). -/
def LegalResponse (a : Byte) (resp : Response) : Prop :=
  match resp.status with
  | .err kind => kind ≠ .invalidParameter ∧ resp.data = []
  | .ok => resp.data = [] ∨ resp.data.length = 4 ∨ ReadCommandFrame a resp.data ∨
      ∃ L, L % 2 = 0 ∧ L ≤ 254 ∧ WriteCommandFrame a L resp.data

/-- The invariant of the machine: whatever stands on the result channel is legal for this instance. -/
def Inv (s : State) : Prop := ∀ resp, s.res = some resp → LegalResponse s.deviceAddr resp

/-- Every request the host still has to issue is admitted (30_encoding.md R46). -/
def Admitted (s : State) : Prop := ∀ q ∈ s.requests, q.wf = true

/-- `n` steps, stopping at the first that is not a next state: the host's run of this core. -/
def run : Nat → State → Host.Outcome State Fault Refusal
  | 0, s => .next s
  | n + 1, s =>
    match step s with
    | .next s' => run n s'
    | .fault f => .fault f
    | .refused r => .refused r

/-- A safe run of `n` transactions: no refusal, and every one of them delivers a result. -/
def SafeRun (n : Nat) (s : State) : Prop := ∃ s', run n s = .next s' ∧ s'.t = s.t + n

end Sys2Proof.Safety
end

