-- ==== Sys2Proof/Certificates/Slice0/Obligations.lean ====
section
/-! DEFINITION. What is claimed of the machine. Each statement names the rule of the spec it formalises;
where a clause rests on the spec's own decision (92_eei_decisions.md) or on the model's choice
(notes/assumptions), its docstring says so. -/

open Sys2Proof Sys2Proof.Machine Sys2Proof.Safety

/-- One step performs the operation that the request at the head of the channel decodes to
(10_state.md R13, R16). The request channel as a list in the state is the model's form, log 2. -/
def Obligations.StepRunsTheDecodedTransaction : Prop :=
  ∀ (s : State) (q : Request) (rest : List Request) (i : Instr),
    s.requests = q :: rest → decode q = .ok i → step s = exec i { s with requests := rest }

/-- Without a request there is no transaction. The model's choice, log 3. -/
def Obligations.StepWithoutRequestChangesNothing : Prop :=
  ∀ s : State, s.requests = [] → step s = .next s

/-- A step is refused exactly when its request is one of the reserved encodings of 30_encoding.md R46
(the spec's decision D20), with the header fields read off as numbers (R44, D2). -/
def Obligations.StepRefusesExactlyTheReservedRequests : Prop :=
  ∀ (s : State) (q : Request) (rest : List Request), s.requests = q :: rest →
    ((∃ why, step s = .refused (.reservedRequest why)) ↔
      (q.hdr.toNat / 4096 = 0 ∨ 5 ≤ q.hdr.toNat / 4096 ∨ q.hdr.toNat / 256 % 16 ≠ 0 ∨
        (q.hdr.toNat / 4096 = 4 ∧ q.hdr.toNat % 256 ≠ 0) ∨
        (q.hdr.toNat / 4096 = 1 ∧ q.data ≠ [])))

/-- Decoding the request of an operation gives the operation back, with every operand
(30_encoding.md R44, R45, R62; the spec's decision D2). -/
def Obligations.DecodeOfEncodeIsTheOperation : Prop :=
  ∀ i : Instr, decode (encode i) = .ok i

/-- An admitted request is the only request of its operation: no bit of it is dropped
(30_encoding.md R60, R68; the spec's decision D2). -/
def Obligations.EncodeOfDecodeIsTheRequest : Prop :=
  ∀ (q : Request) (i : Instr), decode q = .ok i → encode i = q

/-- The header words of 95_test_vectors.md section 2.7, written out from the spec's encoding. -/
def Obligations.HeaderWordsDecodeAsListed : Prop :=
  decode ⟨0x1003, []⟩ = .ok (.encr 0x03) ∧ decode ⟨0x20FF, [0x34, 0x12]⟩ = .ok (.encw 0xFF [0x34, 0x12]) ∧
  decode ⟨0x3000, [0x52]⟩ = .ok (.decr 0x00 [0x52]) ∧ decode ⟨0x4000, [0x11]⟩ = .ok (.decw [0x11]) ∧
  decode ⟨0x4001, []⟩ = .error .ackRegister ∧ decode ⟨0x1103, []⟩ = .error .bits ∧
  decode ⟨0x0003, []⟩ = .error .operation ∧ decode ⟨0x5003, []⟩ = .error .operation ∧
  decode ⟨0xF003, []⟩ = .error .operation ∧ decode ⟨0x1003, [0x00]⟩ = .error .readCommandData

/-- The decoder follows the match and mask columns of opcode_table.json, with the operands of
30_encoding.md R45 and the conditions of R46 (R68; the spec's decisions D2 and D20). -/
def Obligations.DecoderFollowsTheOpcodeTable : Prop :=
  ∀ q : Request,
    (∀ r, decode q = .ok (.encr r) ↔ q.hdr &&& 0xFF00 = 0x1000 ∧ r = q.hdr.setWidth 8 ∧ q.data = []) ∧
    (∀ r P, decode q = .ok (.encw r P) ↔ q.hdr &&& 0xFF00 = 0x2000 ∧ r = q.hdr.setWidth 8 ∧ P = q.data) ∧
    (∀ r F, decode q = .ok (.decr r F) ↔ q.hdr &&& 0xFF00 = 0x3000 ∧ r = q.hdr.setWidth 8 ∧ F = q.data) ∧
    (∀ F, decode q = .ok (.decw F) ↔ q.hdr &&& 0xFFFF = 0x4000 ∧ F = q.data)

/-- 40_encoder.md R69, with its four examples. -/
def Obligations.PairIsTheByteAndItsComplement : Prop :=
  (∀ v : Byte, pair v = [v, comp v] ∧ comp v = v ^^^ 0xFF) ∧
  pair 0x00 = [0x00, 0xFF] ∧ pair 0x03 = [0x03, 0xFC] ∧ pair 0xFF = [0xFF, 0x00] ∧ pair 0x2A = [0x2A, 0xD5]

/-- 30_encoding.md R50: every ENCR completes, with these nine bytes. -/
def Obligations.EncrBuildsTheReadCommand : Prop :=
  ∀ (s : State) (r : Byte),
    Answers (exec (.encr r) s) .ok
      [0x50, 0x50, 0x50, s.deviceAddr, s.deviceAddr ^^^ 0xFF, r, r ^^^ 0xFF, 0xAA, 0xAA]

/-- Every ENCW with an even payload of at most 254 bytes completes, with the frame of the byte table of
30_encoding.md R51, the payload copied as 40_encoder.md R77 says. Which lengths are accepted is R72's;
that L = 0 is one of them is the spec's decision D10 (R74, log 11). -/
def Obligations.EncwBuildsTheWriteCommand : Prop :=
  ∀ (s : State) (r : Byte) (P : List Byte), P.length % 2 = 0 → P.length ≤ 254 →
    ∃ O, Answers (exec (.encw r P) s) .ok O ∧ O.length = 11 + 2 * P.length ∧
      O.take 9 = [0x52, 0x52, 0x52, s.deviceAddr, s.deviceAddr ^^^ 0xFF, r, r ^^^ 0xFF,
        BitVec.ofNat 8 P.length, BitVec.ofNat 8 P.length ^^^ 0xFF] ∧
      (∀ j v, P[j]? = some v → O[9 + 2 * j]? = some v ∧ O[10 + 2 * j]? = some (v ^^^ 0xFF)) ∧
      O.drop (9 + 2 * P.length) = [0xAA, 0xAA]

/-- Which payload lengths ENCW refuses, and with which error (40_encoder.md R72). The order of the two
checks, which decides odd L ≥ 257, is the spec's own reading (R73, decision D5). -/
def Obligations.EncwRejectsOddThenTooLargePayloads : Prop :=
  ∀ (s : State) (r : Byte) (P : List Byte),
    (P.length % 2 = 1 → Answers (exec (.encw r P) s) (.err .oddPayload) []) ∧
    (P.length % 2 = 0 → 255 < P.length → Answers (exec (.encw r P) s) (.err .payloadTooLarge) [])

/-- The empty payload is accepted and gives the 11-byte frame (40_encoder.md R74, the spec's decision D10). -/
def Obligations.EncwEncodesTheEmptyPayload : Prop :=
  ∀ (s : State) (r : Byte),
    Answers (exec (.encw r []) s) .ok
      [0x52, 0x52, 0x52, s.deviceAddr, s.deviceAddr ^^^ 0xFF, r, r ^^^ 0xFF, 0x00, 0xFF, 0xAA, 0xAA]

/-- 40_encoder.md R76: no operation reports InvalidParameter, and the kind still has a code. -/
def Obligations.InvalidParameterIsUnreachable : Prop :=
  (∀ (i : Instr) (s : State) (data : List Byte), ¬ Answers (exec i s) (.err .invalidParameter) data) ∧
  ∃ c, Status.ofCode c = some (.err .invalidParameter)

/-- In every command the encoder builds and every response the decoder accepts, the address, register,
length and data bytes are each followed by their complement (30_encoding.md R49). That an accepted
response has the right ~REG rests on DECR checking byte 6, the spec's decision D9 (log 11). Sync bytes 0
and 1, the first terminator byte and the acknowledge bytes are followed by no complement of theirs; sync
byte 2 is left out, since in a command the DEVICE_ADDR after it may happen to be its complement. -/
def Obligations.EveryFieldIsFollowedByItsComplement : Prop :=
  ∀ (s : State) (r : Byte),
    (∀ O, Answers (exec (.encr r) s) .ok O →
      (∀ p ∈ [3, 5], PairAt O p) ∧ ∀ p ∈ [0, 1, 7], ¬ PairAt O p) ∧
    (∀ P O, Answers (exec (.encw r P) s) .ok O →
      (∀ p ∈ [3, 5, 7], PairAt O p) ∧ (∀ j < P.length, PairAt O (9 + 2 * j)) ∧
      ∀ p ∈ [0, 1, 9 + 2 * P.length], ¬ PairAt O p) ∧
    (∀ F data, Answers (exec (.decr r F) s) .ok data →
      (∀ p ∈ [3, 5, 7, 9, 11, 13, 15], PairAt F p) ∧ ∀ p ∈ [0, 1, 17], ¬ PairAt F p) ∧
    (∀ F data, Answers (exec (.decw F) s) .ok data → ∀ p ∈ [0, 1], ¬ PairAt F p)

/-- A write command determines its register and its payload, and the payload byte `P[j]` stands at
`9 + 2·j` (40_encoder.md R78 (f), a law the spec derives from R71 and R72). -/
def Obligations.WriteCommandDeterminesRegisterAndPayload : Prop :=
  ∀ (s₁ s₂ : State) (r₁ r₂ : Byte) (P₁ P₂ O : List Byte),
    Answers (exec (.encw r₁ P₁) s₁) .ok O → Answers (exec (.encw r₂ P₂) s₂) .ok O →
      s₁.deviceAddr = s₂.deviceAddr ∧ r₁ = r₂ ∧ P₁ = P₂ ∧ ∀ j < P₁.length, P₁[j]? = O[9 + 2 * j]?

/-- Every well-formed read response of the expected register is accepted, and its four data bytes come
back (41_decoder.md R90, which the spec derives from R79 and R85). -/
def Obligations.DecrRecoversTheDataOfAWellFormedResponse : Prop :=
  ∀ (s : State) (r d0 d1 d2 d3 : Byte),
    Answers (exec (.decr r (readResponse r d0 d1 d2 d3)) s) .ok [d0, d1, d2, d3]

/-- Any difference in the sync, length or terminator bytes gives InvalidFrame (41_decoder.md R81). That it
does so also when the address, echo or complement check would fail too is the spec's check order,
decision D6 (log 11). -/
def Obligations.DecrMarkerMismatchIsInvalidFrame : Prop :=
  ∀ (s : State) (r : Byte) (F : List Byte), F.length = 19 → ¬ MarkersOk F →
    Answers (exec (.decr r F) s) (.err .invalidFrame) []

/-- With the markers right, an address field other than 00 FF gives InvalidAddress and 00 FF does not,
whatever DEVICE_ADDR is (41_decoder.md R82). That wrong markers come first, and that InvalidAddress is
named also when the echo or a complement is wrong too, is the spec's check order, decision D6 (log 11). -/
def Obligations.DecrAddressMismatchIsInvalidAddress : Prop :=
  ∀ (s : State) (r : Byte) (F : List Byte), F.length = 19 → MarkersOk F →
    (¬ AddressOk F → Answers (exec (.decr r F) s) (.err .invalidAddress) []) ∧
    (AddressOk F → ∀ data, ¬ Answers (exec (.decr r F) s) (.err .invalidAddress) data)

/-- 41_decoder.md R84: with every earlier check passed, the result is InvalidComplement exactly when one
of the four data pairs is no complement pair, and the result does not say which. -/
def Obligations.DecrComplementMismatchIsInvalidComplement : Prop :=
  ∀ (s : State) (r : Byte) (F : List Byte), F.length = 19 → MarkersOk F → AddressOk F → EchoOk r F →
    (Answers (exec (.decr r F) s) (.err .invalidComplement) [] ↔ ¬ ComplementsOk F) ∧
    ∀ data, Answers (exec (.decr r F) s) (.err .invalidComplement) data → data = []

/-- 41_decoder.md R85: a DECR that passes every check completes with the four data bytes in frame order. -/
def Obligations.DecrReturnsTheDataBytesInFrameOrder : Prop :=
  ∀ (s : State) (r : Byte) (F : List Byte),
    F.length = 19 → MarkersOk F → AddressOk F → EchoOk r F → ComplementsOk F →
      ∃ data, Answers (exec (.decr r F) s) .ok data ∧ data.length = 4 ∧ ∀ k < 4, data[k]? = F[9 + 2 * k]?

/-- Every DECR completes, and reports the first check that fails (41_decoder.md R79 to R84). The order, the
treatment of long frames and the check of byte 6 are the spec's own readings (decisions D6, D7, D9). -/
def Obligations.DecrReportsTheFirstFailingCheck : Prop :=
  ∀ (s : State) (r : Byte) (F : List Byte),
    (F.length ≠ 19 ∨ ¬ MarkersOk F → Answers (exec (.decr r F) s) (.err .invalidFrame) []) ∧
    (F.length = 19 → MarkersOk F → ¬ AddressOk F →
      Answers (exec (.decr r F) s) (.err .invalidAddress) []) ∧
    (F.length = 19 → MarkersOk F → AddressOk F → ¬ EchoOk r F →
      Answers (exec (.decr r F) s) (.err .invalidRegisterEcho) []) ∧
    (F.length = 19 → MarkersOk F → AddressOk F → EchoOk r F → ¬ ComplementsOk F →
      Answers (exec (.decr r F) s) (.err .invalidComplement) []) ∧
    (F.length = 19 → MarkersOk F → AddressOk F → EchoOk r F → ComplementsOk F →
      ∃ data, Answers (exec (.decr r F) s) .ok data)

/-- DECR accepts exactly the 2^32 well-formed responses of its register, and gives every other byte
sequence one of its four errors (41_decoder.md R91, which the spec derives from R79 to R84). -/
def Obligations.DecrAcceptsExactlyTheWellFormedResponses : Prop :=
  ∀ (s : State) (r : Byte),
    (∀ F data, Answers (exec (.decr r F) s) .ok data ↔
      ∃ d0 d1 d2 d3, F = readResponse r d0 d1 d2 d3 ∧ data = [d0, d1, d2, d3]) ∧
    Set.ncard {F : List Byte | ∃ data, Answers (exec (.decr r F) s) .ok data} = 2 ^ 32 ∧
    ∀ F, (¬ ∃ data, Answers (exec (.decr r F) s) .ok data) →
      ∃ kind ∈ [ErrorKind.invalidFrame, .invalidAddress, .invalidRegisterEcho, .invalidComplement],
        Answers (exec (.decr r F) s) (.err kind) []

/-- Any single bit flipped in an accepted response is rejected, with the error of its field
(41_decoder.md R89, which the spec derives from R79 to R84 and its masks of R56, decision D8; that
byte 6 belongs to the register field is decision D9). -/
def Obligations.SingleBitFlipIsRejectedByField : Prop :=
  ∀ (s : State) (r : Byte) (F data : List Byte) (n b : Nat), n < 19 → b < 8 →
    Answers (exec (.decr r F) s) .ok data →
    Answers (exec (.decr r (F.modify n (· ^^^ (1#8 <<< b)))) s)
      (.err (if n ∈ [0, 1, 2, 7, 8, 17, 18] then .invalidFrame
        else if n ∈ [3, 4] then .invalidAddress
        else if n ∈ [5, 6] then .invalidRegisterEcho
        else .invalidComplement)) []

/-- A masked comparison of a 19-byte frame with the template passes exactly when every masked byte
agrees, position by position (30_encoding.md R57, which the spec derives from R54 and R56). -/
def Obligations.MaskedComparisonIsPerPosition : Prop :=
  ∀ (r : Byte) (F M : List Byte), F.length = 19 → M ∈ [mFrame, mAddr, mReg] →
    (maskedEq F (template r) M = true ↔
      ∀ i < 19, (F[i]?.bind fun f => M[i]?.map (f &&& ·)) =
        ((template r)[i]?.bind fun t => M[i]?.map (t &&& ·)))

/-- The three masks select disjoint bytes, together bytes 0–8 and 17–18, each byte whole or not at all
(30_encoding.md R56, the spec's reconstruction, decision D8). -/
def Obligations.MasksAreDisjointAndCoverTheFixedFields : Prop :=
  mFrame.length = 19 ∧ mAddr.length = 19 ∧ mReg.length = 19 ∧
  ∀ n < 19,
    (mFrame[n]? = some 0xFF ↔ n ∈ [0, 1, 2, 7, 8, 17, 18]) ∧
    (mAddr[n]? = some 0xFF ↔ n ∈ [3, 4]) ∧ (mReg[n]? = some 0xFF ↔ n ∈ [5, 6]) ∧
    ∀ M ∈ [mFrame, mAddr, mReg], M[n]? = some 0x00 ∨ M[n]? = some 0xFF

/-- Every DECW completes: OK for the bytes 11 11 11, InvalidResponse for any other sequence of any length
(30_encoding.md R55, 41_decoder.md R88; rejecting long frames is the spec's decision D7). -/
def Obligations.DecwAcceptsExactlyTheAcknowledge : Prop :=
  ∀ (s : State) (F : List Byte),
    (F = [0x11, 0x11, 0x11] → Answers (exec (.decw F) s) .ok []) ∧
    (F ≠ [0x11, 0x11, 0x11] → Answers (exec (.decw F) s) (.err .invalidResponse) [])

/-- 60_exceptions.md R96 and R100: an error carries its kind and no data, it changes nothing the block
has, and the host goes on with its next transaction. -/
def Obligations.AnErrorLeavesNothingBehind : Prop :=
  ∀ (i : Instr) (s s' : State) (kind : ErrorKind) (data : List Byte),
    exec i s = .next s' → s'.res = some ⟨.err kind, data⟩ →
      data = [] ∧ s'.deviceAddr = s.deviceAddr ∧ s'.requests = s.requests

/-- The codes of 60_exceptions.md R93 (the spec's decision D4): 0 to 8, one each, and 9 to 15 no status. -/
def Obligations.StatusCodesAreTheListedOnes : Prop :=
  [Status.ok, .err .invalidParameter, .err .oddPayload, .err .payloadTooLarge, .err .invalidFrame,
    .err .invalidAddress, .err .invalidRegisterEcho, .err .invalidComplement,
    .err .invalidResponse].map Status.code = [0, 1, 2, 3, 4, 5, 6, 7, 8] ∧
  (∀ st : Status, Status.ofCode st.code = some st) ∧
  ∀ c : BitVec 4, 9 ≤ c.toNat → Status.ofCode c = none

/-- Which operation raises which error kind: the "raised by" column of 60_exceptions.md R93
(the numbers of that table are decision D4; no number is used here). -/
def Obligations.EachOperationRaisesOnlyItsOwnErrors : Prop :=
  ∀ (s : State) (kind : ErrorKind) (data : List Byte),
    (∀ r, ¬ Answers (exec (.encr r) s) (.err kind) data) ∧
    (∀ r P, Answers (exec (.encw r P) s) (.err kind) data → kind ∈ [.oddPayload, .payloadTooLarge]) ∧
    (∀ r F, Answers (exec (.decr r F) s) (.err kind) data →
      kind ∈ [.invalidFrame, .invalidAddress, .invalidRegisterEcho, .invalidComplement]) ∧
    (∀ F, Answers (exec (.decw F) s) (.err kind) data → kind = .invalidResponse)

/-- Every admitted request returns OK or one error in one transaction: it takes the request, delivers one
result and advances the index by one (00_scope.md R12, which the spec derives; 10_state.md R16, D12). -/
def Obligations.EveryAdmittedRequestCompletes : Prop :=
  ∀ (s : State) (q : Request) (rest : List Request), s.requests = q :: rest → q.wf = true →
    ∃ s' resp, step s = .next s' ∧ s'.res = some resp ∧ s'.requests = rest ∧ s'.t = s.t + 1 ∧
      s'.deviceAddr = s.deviceAddr

/-- The outcomes of a step are kept apart (60_exceptions.md R104, the spec's decision D20). A request
completes exactly when it is admitted; it is refused exactly when the decoder refuses it, under the
decoder's own reason and no other; and an architected error is no stop: the next admitted request
completes after it. That a model fault has no case is the type Fault without constructors, log 7. -/
def Obligations.ErrorsCompleteAndOnlyReservedRequestsAreRefused : Prop :=
  ∀ (s : State) (q : Request) (rest : List Request), s.requests = q :: rest →
    ((∃ s', step s = .next s') ↔ q.wf = true) ∧
    (∀ refusal, step s = .refused refusal ↔
      ∃ why, refusal = .reservedRequest why ∧ decode q = .error why) ∧
    (∀ s' kind data q' rest', step s = .next s' → s'.res = some ⟨.err kind, data⟩ →
      rest = q' :: rest' → q'.wf = true → ∃ s'', step s' = .next s'' ∧ s''.t = s.t + 2)

/-- The frame of ENCR, ENCW, DECR and DECW: DEVICE_ADDR and the requests still to come are unchanged, the
index advances by one, and the result channel carries one result (10_state.md R14, R16, R18, D3, D12). -/
def Obligations.EveryOperationKeepsItsFrame : Prop :=
  ∀ (i : Instr) (s s' : State), exec i s = .next s' →
    s'.deviceAddr = s.deviceAddr ∧ s'.requests = s.requests ∧ s'.t = s.t + 1 ∧ s'.res.isSome = true

/-- A result is a function of DEVICE_ADDR and the request alone: nothing a former transaction left
matters (10_state.md R14, the spec's decision D12). -/
def Obligations.ResultDependsOnlyOnDeviceAddrAndRequest : Prop :=
  ∀ (s₁ s₂ s₁' s₂' : State) (q : Request) (rest₁ rest₂ : List Request),
    s₁.deviceAddr = s₂.deviceAddr → s₁.requests = q :: rest₁ → s₂.requests = q :: rest₂ →
    step s₁ = .next s₁' → step s₂ = .next s₂' → s₁'.res = s₂'.res

/-- DECR and DECW do not read DEVICE_ADDR (41_decoder.md R92, which the spec derives from R79 and R88). -/
def Obligations.DecodersIgnoreDeviceAddr : Prop :=
  ∀ (s₁ s₂ : State) (F : List Byte) (status : Status) (data : List Byte),
    (∀ r, Answers (exec (.decr r F) s₁) status data → Answers (exec (.decr r F) s₂) status data) ∧
    (Answers (exec (.decw F) s₁) status data → Answers (exec (.decw F) s₂) status data)

/-- In a program of admitted requests each transaction has the result it would have had alone, whatever
came before it, an error included (20_memory.md R40 and 60_exceptions.md R101, both derived by the
spec from R14 and R100). -/
def Obligations.EachTransactionHasItsResultAlone : Prop :=
  ∀ (s alone : State) (n : Nat) (q : Request) (rest : List Request),
    Admitted s → s.requests[n]? = some q → alone.requests = q :: rest →
    alone.deviceAddr = s.deviceAddr →
    ∃ s' alone', run (n + 1) s = .next s' ∧ step alone = .next alone' ∧
      s'.res = alone'.res ∧ s'.t = s.t + n + 1

/-- A program of admitted requests runs to its end, one transaction a step (00_scope.md R12 and
70_reset_and_hazards.md R124, 10_state.md R16, D12). -/
def Obligations.AdmittedProgramRunsToItsEnd : Prop :=
  ∀ s : State, Admitted s →
    (∀ n ≤ s.requests.length, SafeRun n s) ∧
    ∃ s', run s.requests.length s = .next s' ∧ s'.requests = [] ∧
      s'.t = s.t + s.requests.length ∧ s'.deviceAddr = s.deviceAddr

/-- The first reserved request of a program refuses the run, under the decoder's reason, and the refusal
stays for the whole run, whatever requests follow; up to it the run goes on (30_encoding.md R46, the
spec's decision D20; that the mark is the outcome of the run is the model's form, log 6). -/
def Obligations.RefusalStaysForTheWholeRun : Prop :=
  ∀ (s : State) (n : Nat) (q : Request) (why : Reserved),
    (∀ p ∈ s.requests.take n, p.wf = true) → s.requests[n]? = some q → decode q = .error why →
      (∃ s', run n s = .next s' ∧ s'.t = s.t + n) ∧
      ∀ m, n < m → run m s = .refused (.reservedRequest why)

/-- Every step keeps the invariant that the result channel carries a legal result of this instance: a
reachable error kind without data, nothing, four data bytes, or a command frame of R50's or R51's
layout for DEVICE_ADDR (10_state.md R13, 20_memory.md R33, 60_exceptions.md R93, R96). -/
def Obligations.StepKeepsTheResultLegal : Prop :=
  ∀ s s' : State, Inv s → step s = .next s' → Inv s'

/-- The invariant holds right after reset (10_state.md R24). -/
def Obligations.ResetResultIsLegal : Prop := Inv State.reset

/-- DEVICE_ADDR keeps its instantiation value for the whole run (10_state.md R18, the spec's decision D3). -/
def Obligations.DeviceAddrIsFixedForTheRun : Prop :=
  ∀ (s s' : State) (n : Nat), run n s = .next s' → s'.deviceAddr = s.deviceAddr

/-- What reset leaves (10_state.md R24, decision D17): DEVICE_ADDR at its OPEN instantiation value, no
buffers and index 0. That the channels are fields and hold nothing is the model's choice, logs 2 and 4. -/
def Obligations.ResetHoldsOnlyTheDeviceAddress : Prop :=
  State.reset.deviceAddr = Config.deviceAddr ∧ State.reset.requests = [] ∧ State.reset.res = none ∧
    State.reset.t = 0

/-- A reset between transactions drops the requests not yet started, keeps DEVICE_ADDR, and changes no
later result: any admitted request may be the first after it (70_reset_and_hazards.md R111 to R113,
the spec's decision D17; the reset operation is the model's form, log 8). -/
def Obligations.ResetChangesNoLaterResult : Prop :=
  ∀ (s : State) (q : Request) (rest : List Request), q.wf = true →
    (blockReset s).requests = [] ∧ (blockReset s).deviceAddr = s.deviceAddr ∧
    ∃ s₁ s₂ : State, step { blockReset s with requests := q :: rest } = .next s₁ ∧
      step { s with requests := q :: rest } = .next s₂ ∧ s₁.res = s₂.res

/-- Issuing a request twice gives its result twice (20_memory.md R35, which the spec derives from R14 and R12). -/
def Obligations.ReissuedRequestGivesTheSameResult : Prop :=
  ∀ (s s₁ s₂ : State) (q : Request) (rest : List Request), s.requests = q :: q :: rest →
    step s = .next s₁ → step s₁ = .next s₂ → s₁.res = s₂.res

/-- Which write commands pass as a read response: exactly those with DEVICE_ADDR 0x00, four payload bytes
and the expected register, and then DECR returns the payload (30_encoding.md R59, which the spec
derives from R51 and R54). -/
def Obligations.WriteCommandPassesAsResponseExactlyFromMaster : Prop :=
  ∀ (s : State) (r expected : Byte) (P O data : List Byte), Answers (exec (.encw r P) s) .ok O →
    (Answers (exec (.decr expected O) s) .ok data ↔
      s.deviceAddr = 0x00 ∧ P.length = 4 ∧ expected = r ∧ data = P)
end

