-- ==== Sys2Proof/Laws/Header.lean ====
section
/-! SUPPORT. The fields of a header word, and what each field of an encoded request is. -/

namespace Sys2Proof

theorem headerOf_op (o : BitVec 4) (r : Byte) : (headerOf o r).extractLsb' 12 4 = o := by
  apply BitVec.eq_of_getLsbD_eq
  intro i hi
  have hr : BitVec.getLsbD r (12 + i) = false := BitVec.getLsbD_of_ge _ _ (by omega)
  simp [headerOf, hi, show 12 + i < 16 by omega, hr]

theorem headerOf_rsv (o : BitVec 4) (r : Byte) : (headerOf o r).extractLsb' 8 4 = 0#4 := by
  apply BitVec.eq_of_getLsbD_eq
  intro i hi
  simp [headerOf, hi, show 8 + i < 12 by omega]

theorem headerOf_reg (o : BitVec 4) (r : Byte) : (headerOf o r).extractLsb' 0 8 = r := by
  apply BitVec.eq_of_getLsbD_eq
  intro i hi
  simp [headerOf, hi, show i < 12 by omega, show i < 16 by omega]

/-- A header is its three fields. -/
theorem headerOf_fields (h : Header) (hrsv : h.extractLsb' 8 4 = 0#4) :
    headerOf (h.extractLsb' 12 4) (h.extractLsb' 0 8) = h := by
  apply BitVec.eq_of_getLsbD_eq
  intro i hi
  have hz : ∀ k, k < 4 → h.getLsbD (8 + k) = false := fun k hk => by
    have := congrArg (fun b => b.getLsbD k) hrsv
    simpa [hk] using this
  by_cases h8 : i < 8
  · simp [headerOf, hi, h8, show i < 12 by omega]
  · by_cases h12 : i < 12
    · have := hz (i - 8) (by omega)
      rw [show 8 + (i - 8) = i by omega] at this
      simp [headerOf, h8, h12, this]
    · simp [headerOf, hi, h8, h12, show i - 12 < 4 by omega, show 12 + (i - 12) = i by omega]

end Sys2Proof
end

