-- ==== Sys2Proof/Laws/Decode.lean ====
section
/-! SUPPORT. Everything the decoder can answer, and the header fields as numbers. -/

namespace Sys2Proof

/-- Every answer of the decoder, with what it says of the request (30_encoding.md R44 to R46). -/
theorem decode_cases (q : Request) :
    (q.rsv ≠ 0#4 ∧ decode q = .error .bits) ∨
    (q.rsv = 0#4 ∧ q.op = opEncr ∧ q.data = [] ∧ decode q = .ok (.encr q.reg)) ∨
    (q.rsv = 0#4 ∧ q.op = opEncr ∧ q.data ≠ [] ∧ decode q = .error .readCommandData) ∨
    (q.rsv = 0#4 ∧ q.op = opEncw ∧ decode q = .ok (.encw q.reg q.data)) ∨
    (q.rsv = 0#4 ∧ q.op = opDecr ∧ decode q = .ok (.decr q.reg q.data)) ∨
    (q.rsv = 0#4 ∧ q.op = opDecw ∧ q.reg = 0#8 ∧ decode q = .ok (.decw q.data)) ∨
    (q.rsv = 0#4 ∧ q.op = opDecw ∧ q.reg ≠ 0#8 ∧ decode q = .error .ackRegister) ∨
    (q.rsv = 0#4 ∧ q.op ≠ opEncr ∧ q.op ≠ opEncw ∧ q.op ≠ opDecr ∧ q.op ≠ opDecw ∧
      decode q = .error .operation) := by
  by_cases hrsv : q.rsv = 0#4
  · by_cases h1 : q.op = opEncr
    · by_cases hd : q.data = [] <;> simp [decode, hrsv, h1, hd]
    · by_cases h2 : q.op = opEncw
      · simp [decode, hrsv, h2, opEncw, opEncr]
      · by_cases h3 : q.op = opDecr
        · simp [decode, hrsv, h3, opDecr, opEncw, opEncr]
        · by_cases h4 : q.op = opDecw
          · by_cases hr : q.reg = 0#8 <;> simp [decode, hrsv, h4, hr, opDecw, opDecr, opEncw, opEncr]
          · simp [decode, hrsv, h1, h2, h3, h4]
  · simp [decode, hrsv]

/-- The decoder admits exactly the well-formed requests (R46). -/
theorem decode_ok_iff_wf (q : Request) : (∃ i, decode q = .ok i) ↔ q.wf = true := by
  rcases decode_cases q with h | h | h | h | h | h | h | h <;>
    simp_all [Request.wf, Request.opWf, Request.rsvWf, Request.ackRegisterWf, Request.readCommandDataWf,
      opEncr, opEncw, opDecr, opDecw]

theorem op_toNat (q : Request) : q.op.toNat = q.hdr.toNat / 4096 := by
  have := q.hdr.isLt
  simp [Request.op, Nat.shiftRight_eq_div_pow]
  omega

theorem rsv_toNat (q : Request) : q.rsv.toNat = q.hdr.toNat / 256 % 16 := by
  simp [Request.rsv, Nat.shiftRight_eq_div_pow]

theorem reg_toNat (q : Request) : q.reg.toNat = q.hdr.toNat % 256 := by
  simp [Request.reg]

end Sys2Proof
end

