-- ==== Sys2Proof/Laws/Operands.lean ====
section
/-! SUPPORT. Complements, pairs, the alternating split and the masked comparison. -/

namespace Sys2Proof.Machine

theorem comp_comp (v : Byte) : comp (comp v) = v := by
  simp [comp]

theorem comp_injective : Function.Injective comp := fun a b h => by
  simpa [comp_comp] using congrArg comp h

theorem comp_eq_comp_iff (a b : Byte) : comp a = comp b ↔ a = b := comp_injective.eq_iff

theorem length_flatMap_pair (P : List Byte) : (P.flatMap pair).length = 2 * P.length := by
  induction P with
  | nil => rfl
  | cons v P ih => rw [List.flatMap_cons, List.length_append, ih]; simp [pair]; omega

/-- Even positions of the paired payload hold the payload in its order (40_encoder.md R77). -/
theorem getElem?_flatMap_pair_even (P : List Byte) (j : Nat) : (P.flatMap pair)[2 * j]? = P[j]? := by
  induction P generalizing j with
  | nil => simp
  | cons v P ih =>
    cases j with
    | zero => simp [pair]
    | succ j => simpa [pair, Nat.mul_succ] using ih j

/-- Odd positions hold the complements (40_encoder.md R69). -/
theorem getElem?_flatMap_pair_odd (P : List Byte) (j : Nat) :
    (P.flatMap pair)[2 * j + 1]? = P[j]?.map comp := by
  induction P generalizing j with
  | nil => simp
  | cons v P ih =>
    cases j with
    | zero => simp [pair]
    | succ j => simpa [pair, Nat.mul_succ] using ih j

theorem flatMap_pair_injective : Function.Injective (List.flatMap pair) := fun P Q h => by
  apply List.ext_getElem?
  intro j
  rw [← getElem?_flatMap_pair_even P, ← getElem?_flatMap_pair_even Q, h]

/-- Splitting what pairing interleaved gives the values and their complements. -/
theorem splitAlternating_flatMap_pair (P : List Byte) :
    splitAlternating (P.flatMap pair) = (P, P.map comp) := by
  induction P with
  | nil => rfl
  | cons v P ih => simp [pair, splitAlternating] at ih ⊢; simp [ih]

theorem length_template (r : Byte) : (template r).length = 19 := rfl

/-- What a masked comparison says, position by position (30_encoding.md R57), on sequences of one length. -/
theorem maskedEq_iff (F T M : List Byte) (hF : F.length = M.length) (hT : T.length = M.length) :
    maskedEq F T M = true ↔
      ∀ (i : Nat) (f t m : Byte), F[i]? = some f → T[i]? = some t → M[i]? = some m → f &&& m = t &&& m := by
  induction M generalizing F T with
  | nil =>
    rw [List.length_eq_zero_iff.mp hF, List.length_eq_zero_iff.mp hT]
    simp [maskedEq, masked]
  | cons m M ih =>
    obtain ⟨f, F, rfl⟩ := List.exists_cons_of_length_eq_add_one hF
    obtain ⟨t, T, rfl⟩ := List.exists_cons_of_length_eq_add_one hT
    have ih := ih F T (by simpa using hF) (by simpa using hT)
    simp only [maskedEq, masked, beq_iff_eq, List.zipWith_cons_cons, List.cons.injEq] at ih ⊢
    rw [ih]
    constructor
    · rintro ⟨h0, h⟩ (_ | i)
      · rintro _ _ _ ⟨⟩ ⟨⟩ ⟨⟩; exact h0
      · simpa using h i
    · intro h
      exact ⟨h 0 f t m rfl rfl rfl, fun i => by simpa using h (i + 1)⟩

end Sys2Proof.Machine
end

