-- ==== Sys2Proof/Laws/State.lean ====
section
/-! SUPPORT. One lemma per field per update of State. -/

namespace Sys2Proof.Machine

variable (status : Status) (data : List Byte) (s : State) (nbits w : Nat)

@[simp] theorem deliver_deviceAddr : (deliver status data s).deviceAddr = s.deviceAddr := rfl
@[simp] theorem deliver_requests : (deliver status data s).requests = s.requests := rfl
@[simp] theorem deliver_res : (deliver status data s).res = some ⟨status, data⟩ := rfl
@[simp] theorem deliver_t : (deliver status data s).t = s.t + 1 := rfl

@[simp] theorem blockReset_deviceAddr : (blockReset s).deviceAddr = s.deviceAddr := rfl
@[simp] theorem blockReset_requests : (blockReset s).requests = [] := rfl
@[simp] theorem blockReset_res : (blockReset s).res = none := rfl
@[simp] theorem blockReset_t : (blockReset s).t = s.t := rfl

@[simp] theorem withFetchWord_deviceAddr : (s.withFetchWord nbits w).deviceAddr = s.deviceAddr := rfl
@[simp] theorem withFetchWord_requests :
    (s.withFetchWord nbits w).requests = Request.ofTableWord nbits w :: s.requests.tail := rfl
@[simp] theorem withFetchWord_res : (s.withFetchWord nbits w).res = s.res := rfl
@[simp] theorem withFetchWord_t : (s.withFetchWord nbits w).t = s.t := rfl

end Sys2Proof.Machine
end

