-- ==== Sys2Proof/Laws/Ops.lean ====
section
/-! SUPPORT. One lemma for each shared operation: everything it can do. -/

namespace Sys2Proof.Machine

/-- Inside the buffer MemRead gives the `n` bytes from `i` on (20_memory.md R28). -/
theorem memRead_of_le (F : List Byte) (i n : Nat) (h : i + n ≤ F.length) :
    memRead F i n = some ((F.drop i).take n) := if_pos h

/-- What a defined MemRead says of its bytes (20_memory.md R28). -/
theorem memRead_spec (F S : List Byte) (i n : Nat) (h : memRead F i n = some S) :
    i + n ≤ F.length ∧ S.length = n ∧ ∀ k < n, S[k]? = F[i + k]? := by
  unfold memRead at h
  split at h
  · cases h
    exact ⟨‹_›, by simp; omega, fun k hk => by simp [hk]⟩
  · cases h

@[simp] theorem memWrite_eq (O v : List Byte) : memWrite O v = O ++ v := rfl

/-- `respond` always ends in a next state, and delivers exactly one result. -/
theorem respond_eq (result : Except ErrorKind (List Byte)) (s : State) :
    respond result s = .next (match result with
      | .ok data => deliver .ok data s
      | .error kind => deliver (.err kind) [] s) := by
  cases result <;> rfl

theorem respond_next (result : Except ErrorKind (List Byte)) (s s' : State)
    (h : respond result s = .next s') :
    (∃ data, result = .ok data ∧ s' = deliver .ok data s) ∨
      (∃ kind, result = .error kind ∧ s' = deliver (.err kind) [] s) := by
  cases result with
  | ok data => exact .inl ⟨data, rfl, by cases h; rfl⟩
  | error kind => exact .inr ⟨kind, rfl, by cases h; rfl⟩

theorem fetch_nil (s : State) (h : s.requests = []) : fetch s = none := by simp [fetch, h]

theorem fetch_cons (s : State) (q : Request) (rest : List Request) (h : s.requests = q :: rest) :
    fetch s = some (q, { s with requests := rest }) := by simp [fetch, h]

end Sys2Proof.Machine
end

