-- ==== Sys2Proof/Laws/Exec.lean ====
section
/-! SUPPORT. What an operation computes, as one function of `DEVICE_ADDR` and the request (10_state.md R14),
and the shape of every step. -/

namespace Sys2Proof.Machine

/-- The result `OK(result)` or `ERR(kind)` of each operation (00_scope.md R11). -/
def codecResult (a : Byte) : Instr → Except ErrorKind (List Byte)
  | .encr reg => .ok (encodeRead a reg)
  | .encw reg payload => encodeWrite a reg payload
  | .decr reg frame => decodeReadResponse reg frame
  | .decw frame => decodeWriteResponse frame

theorem exec_eq_respond (i : Instr) (s : State) : exec i s = respond (codecResult s.deviceAddr i) s := by
  cases i <;> rfl

/-- Everything a meaning can do: deliver one result and advance the index. -/
theorem exec_next (i : Instr) (s s' : State) (h : exec i s = .next s') :
    (∃ data, codecResult s.deviceAddr i = .ok data ∧ s' = deliver .ok data s) ∨
      (∃ kind, codecResult s.deviceAddr i = .error kind ∧ s' = deliver (.err kind) [] s) :=
  respond_next _ _ _ (exec_eq_respond i s ▸ h)

/-- Everything a step can do. -/
theorem step_cases (s : State) :
    (s.requests = [] ∧ step s = .next s) ∨
    (∃ q rest i, s.requests = q :: rest ∧ decode q = .ok i ∧
      step s = exec i { s with requests := rest }) ∨
    (∃ q rest why, s.requests = q :: rest ∧ decode q = .error why ∧
      step s = .refused (.reservedRequest why)) := by
  cases hr : s.requests with
  | nil => exact .inl ⟨rfl, by simp [step, fetch_nil s hr, idle]⟩
  | cons q rest =>
    cases hd : decode q with
    | ok i => exact .inr (.inl ⟨q, rest, i, rfl, hd, by simp [step, fetch_cons s q rest hr, hd]⟩)
    | error why =>
      exact .inr (.inr ⟨q, rest, why, rfl, hd, by simp [step, fetch_cons s q rest hr, hd, refuseReserved]⟩)

end Sys2Proof.Machine
end

