-- ==== Sys2Proof/Laws/PerInstr.lean ====
section
/-! SUPPORT. For every operation: the request that issues it is admitted. -/

namespace Sys2Proof.Laws.RequestAdmitted

/-- None of the reserved encodings of 30_encoding.md R46 applies to the request of the operation. -/
def Statement (i : Instr) : Prop := (encode i).wf = true

theorem encr (reg : Byte) : Statement (.encr reg) := by
  simp [Statement, encode, Request.wf, Request.opWf, Request.rsvWf, Request.ackRegisterWf,
    Request.readCommandDataWf, Request.op, Request.rsv, Request.reg, headerOf_op, headerOf_rsv,
    opEncr, opEncw, opDecr, opDecw]

theorem encw (reg : Byte) (payload : List Byte) : Statement (.encw reg payload) := by
  simp [Statement, encode, Request.wf, Request.opWf, Request.rsvWf, Request.ackRegisterWf,
    Request.readCommandDataWf, Request.op, Request.rsv, Request.reg, headerOf_op, headerOf_rsv,
    opEncr, opEncw, opDecr, opDecw]

theorem decr (reg : Byte) (frame : List Byte) : Statement (.decr reg frame) := by
  simp [Statement, encode, Request.wf, Request.opWf, Request.rsvWf, Request.ackRegisterWf,
    Request.readCommandDataWf, Request.op, Request.rsv, Request.reg, headerOf_op, headerOf_rsv,
    opEncr, opEncw, opDecr, opDecw]

theorem decw (frame : List Byte) : Statement (.decw frame) := by
  simp [Statement, encode, Request.wf, Request.opWf, Request.rsvWf, Request.ackRegisterWf,
    Request.readCommandDataWf, Request.op, Request.rsv, Request.reg, headerOf_op, headerOf_rsv,
    headerOf_reg, opEncr, opEncw, opDecr, opDecw]

end Sys2Proof.Laws.RequestAdmitted
end

