-- ==== Sys2Proof/Laws/Run.lean ====
section
/-! SUPPORT. Runs: the machine's `run` is the host's, and one more transaction by what the step answers. -/

namespace Sys2Proof.Safety

open Sys2Proof.Machine

theorem run_zero (s : State) : run 0 s = .next s := rfl

theorem run_succ_next (n : Nat) (s s' : State) (h : step s = .next s') : run (n + 1) s = run n s' := by
  simp [run, h]

theorem run_succ_refused (n : Nat) (s : State) (r : Refusal) (h : step s = .refused r) :
    run (n + 1) s = .refused r := by
  simp [run, h]

theorem hostRun_succ_next (M : Host.Core) (n : Nat) (s s' : M.State) (h : M.step s = .next s') :
    M.run (n + 1) s = M.run n s' := by
  simp [Host.Core.run, h]

theorem hostRun_succ_refused (M : Host.Core) (n : Nat) (s : M.State) (r : M.Refusal)
    (h : M.step s = .refused r) : M.run (n + 1) s = .refused r := by
  simp [Host.Core.run, h]

/-- The run the claims speak of is the host's run of the core. -/
theorem hostRun_eq_run (n : Nat) (s : State) : Host.Core.run Sys2Proof.core n s = run n s := by
  induction n generalizing s with
  | zero => rfl
  | succ n ih =>
    cases h : step s with
    | next s' => rw [run_succ_next n s s' h, ← ih s']; exact hostRun_succ_next Sys2Proof.core n s s' h
    | fault f => exact nomatch f
    | refused r => rw [run_succ_refused n s r h]; exact hostRun_succ_refused Sys2Proof.core n s r h

end Sys2Proof.Safety
end

