-- ==== Sys2Proof/Tests/Slice0.lean ====
section
/-! SUPPORT. Small tests whose expected values stand in the spec, and a witness for the hypotheses of each
statement of Certificates/Slice0/Obligations.lean that has any. -/

namespace Sys2Proof.Tests

open Sys2Proof Sys2Proof.Machine Sys2Proof.Safety

/-! ### Ill-formed requests, one for each check of WellFormed.lean -/

theorem test_opWf_refuses : Request.opWf ⟨0x5003, []⟩ = false ∧ Request.wf ⟨0x5003, []⟩ = false := by decide
theorem test_rsvWf_refuses : Request.rsvWf ⟨0x1103, []⟩ = false ∧ Request.wf ⟨0x1103, []⟩ = false := by decide
theorem test_ackRegisterWf_refuses :
    Request.ackRegisterWf ⟨0x4001, []⟩ = false ∧ Request.wf ⟨0x4001, []⟩ = false := by decide
theorem test_readCommandDataWf_refuses :
    Request.readCommandDataWf ⟨0x1003, [0x00]⟩ = false ∧ Request.wf ⟨0x1003, [0x00]⟩ = false := by decide

/-! ### Decoding, from the bit patterns of the Encoding lines of R71, R72, R79 and R88 -/

theorem test_decode_encr : decode ⟨0b0001_0000_00000011#16, []⟩ = .ok (.encr 0x03) := by decide
theorem test_decode_encw : decode ⟨0b0010_0000_11111110#16, [0xFF, 0x00]⟩ = .ok (.encw 0xFE [0xFF, 0x00]) := by
  decide
theorem test_decode_decr : decode ⟨0b0011_0000_10000000#16, [0x52]⟩ = .ok (.decr 0x80 [0x52]) := by decide
theorem test_decode_decw : decode ⟨0b0100_0000_00000000#16, [0x11]⟩ = .ok (.decw [0x11]) := by decide

/-- The boundaries of the reserved encodings (30_encoding.md R46). -/
theorem test_reserved_boundaries :
    decode ⟨0x00FF, []⟩ = .error .operation ∧ decode ⟨0x5000, []⟩ = .error .operation ∧
    decode ⟨0xF0FF, []⟩ = .error .operation ∧ decode ⟨0x1100, []⟩ = .error .bits ∧
    decode ⟨0x4F00, []⟩ = .error .bits ∧ decode ⟨0x4001, []⟩ = .error .ackRegister ∧
    decode ⟨0x10FF, [0x00]⟩ = .error .readCommandData ∧ decode ⟨0x2000, []⟩ = .ok (.encw 0x00 []) := by decide

/-- No header belongs to two rows of opcode_table.json. -/
theorem test_opcodeTable_disjoint :
    opcodeTable.Pairwise fun a b => (a.value ^^^ b.value) &&& (a.mask &&& b.mask) ≠ 0 := by decide

theorem test_decodeTableWord : decodeTableWord 16 0x1003 = some (.encr 0x03) ∧
    decodeTableWord 24 0x523003 = some (.decr 0x03 [0x52]) ∧ decodeTableWord 16 0x4001 = none := by decide

/-! ### One transaction each, against the vectors of 95_test_vectors.md -/

/-- A block of device address `a` whose host issues these requests. -/
def block (a : Byte) (requests : List Request) : State := ⟨a, requests, none, 0⟩

/-- What the result channel carries after one step. -/
def answer (s : State) : Option Response :=
  match step s with
  | .next s' => s'.res
  | _ => none

/-- The good frame G of section 2.4. -/
def good : List Byte :=
  [0x52, 0x52, 0x52, 0x00, 0xFF, 0x03, 0xFC, 0x04, 0xFB, 0x10, 0xEF, 0x27, 0xD8, 0x00, 0xFF, 0x00, 0xFF, 0xAA, 0xAA]

/-- Section 2.2, first row. -/
theorem test_encr_vector : answer (block 0x01 [⟨0x1003, []⟩]) =
    some ⟨.ok, [0x50, 0x50, 0x50, 0x01, 0xFE, 0x03, 0xFC, 0xAA, 0xAA]⟩ := by decide

/-- Section 2.2: the broadcast address is encoded like any other. -/
theorem test_encr_broadcast : answer (block 0xFF [⟨0x10FF, []⟩]) =
    some ⟨.ok, [0x50, 0x50, 0x50, 0xFF, 0x00, 0xFF, 0x00, 0xAA, 0xAA]⟩ := by decide

/-- Section 2.3, first row. -/
theorem test_encw_vector : answer (block 0x01 [⟨0x2010, [0x34, 0x12]⟩]) =
    some ⟨.ok, [0x52, 0x52, 0x52, 0x01, 0xFE, 0x10, 0xEF, 0x02, 0xFD, 0x34, 0xCB, 0x12, 0xED, 0xAA, 0xAA]⟩ := by
  decide

/-- Section 2.3: 255 and 257 are odd, 256 is too large. -/
theorem test_encw_lengths :
    answer (block 0x01 [⟨0x2005, List.replicate 255 0x00⟩]) = some ⟨.err .oddPayload, []⟩ ∧
    answer (block 0x01 [⟨0x2005, List.replicate 256 0x00⟩]) = some ⟨.err .payloadTooLarge, []⟩ ∧
    answer (block 0x01 [⟨0x2005, List.replicate 257 0x00⟩]) = some ⟨.err .oddPayload, []⟩ := by decide +kernel

/-- Section 2.4: the good frame, and a corruption that keeps a pair consistent. -/
theorem test_decr_accepts : answer (block 0x01 [⟨0x3003, good⟩]) = some ⟨.ok, [0x10, 0x27, 0x00, 0x00]⟩ ∧
    answer (block 0x01 [⟨0x3003, (good.set 9 0x11).set 10 0xEE⟩]) = some ⟨.ok, [0x11, 0x27, 0x00, 0x00]⟩ := by
  decide

/-- Section 2.4: one error of each kind, and the priorities. -/
theorem test_decr_errors :
    answer (block 0x01 [⟨0x3003, good ++ [0x00]⟩]) = some ⟨.err .invalidFrame, []⟩ ∧
    answer (block 0x01 [⟨0x3003, ((good.set 0 0x50).set 3 0x01).set 5 0x04⟩]) = some ⟨.err .invalidFrame, []⟩ ∧
    answer (block 0x01 [⟨0x3003, ((good.set 3 0x01).set 5 0x04).set 10 0x00⟩]) = some ⟨.err .invalidAddress, []⟩ ∧
    answer (block 0x01 [⟨0x3003, (good.set 6 0xFD).set 10 0x00⟩]) = some ⟨.err .invalidRegisterEcho, []⟩ ∧
    answer (block 0x01 [⟨0x3003, good.set 16 0x00⟩]) = some ⟨.err .invalidComplement, []⟩ := by decide

/-- Section 2.6. -/
theorem test_decw_accepts : answer (block 0x01 [⟨0x4000, [0x11, 0x11, 0x11]⟩]) = some ⟨.ok, []⟩ := by decide

/-- Section 2.6: short, long, and one bit wrong. -/
theorem test_decw_errors :
    answer (block 0x01 [⟨0x4000, [0x11, 0x11]⟩]) = some ⟨.err .invalidResponse, []⟩ ∧
    answer (block 0x01 [⟨0x4000, [0x11, 0x11, 0x11, 0x11]⟩]) = some ⟨.err .invalidResponse, []⟩ ∧
    answer (block 0x01 [⟨0x4000, [0x11, 0x11, 0x10]⟩]) = some ⟨.err .invalidResponse, []⟩ := by decide

/-- The first transaction after reset: the fetch word runs, and the index is 1. -/
theorem test_first_after_reset :
    (match step (State.reset.withFetchWord 16 0x4000) with
      | .next s' => s'.t = 1 ∧ s'.res = some ⟨.err .invalidResponse, []⟩
      | _ => False) := by
  exact ⟨rfl, rfl⟩

/-! ### Witnesses: the hypotheses of each statement are met -/

/-- P1 of section 3. -/
def program : State := block 0x01 [⟨0x1003, []⟩, ⟨0x3003, good⟩]

theorem witness_StepRunsTheDecodedTransaction :
    program.requests = ⟨0x1003, []⟩ :: [⟨0x3003, good⟩] ∧ decode ⟨0x1003, []⟩ = .ok (.encr 0x03) := by decide

theorem witness_StepWithoutRequestChangesNothing : State.reset.requests = [] := rfl

theorem witness_StepRefusesExactlyTheReservedRequests :
    program.requests = ⟨0x1003, []⟩ :: [⟨0x3003, good⟩] := rfl

theorem witness_EncodeOfDecodeIsTheRequest : decode ⟨0x20FF, [0x01]⟩ = .ok (.encw 0xFF [0x01]) := by decide

theorem witness_EncwBuildsTheWriteCommand :
    (List.replicate 254 (0x00 : Byte)).length % 2 = 0 ∧ (List.replicate 254 (0x00 : Byte)).length ≤ 254 ∧
    ([] : List Byte).length % 2 = 0 := by
  rw [List.length_replicate]
  decide

theorem witness_EncwRejectsOddThenTooLargePayloads :
    ([0x01] : List Byte).length % 2 = 1 ∧ (List.replicate 257 (0x00 : Byte)).length % 2 = 1 ∧
    (List.replicate 256 (0x00 : Byte)).length % 2 = 0 ∧ 255 < (List.replicate 256 (0x00 : Byte)).length := by
  rw [List.length_replicate, List.length_replicate]
  decide

theorem witness_EveryFieldIsFollowedByItsComplement :
    (∃ O, Answers (exec (.encr 0x03) program) .ok O) ∧ (∃ O, Answers (exec (.encw 0x10 [0x34, 0x12]) program) .ok O) ∧
    Answers (exec (.decr 0x03 good) program) .ok [0x10, 0x27, 0x00, 0x00] ∧
    Answers (exec (.decw [0x11, 0x11, 0x11]) program) .ok [] :=
  ⟨⟨_, _, rfl, rfl⟩, ⟨_, _, rfl, rfl⟩, ⟨_, rfl, rfl⟩, ⟨_, rfl, rfl⟩⟩

theorem witness_WriteCommandDeterminesRegisterAndPayload :
    ∃ O, Answers (exec (.encw 0x10 [0x34, 0x12]) program) .ok O ∧
      Answers (exec (.encw 0x10 [0x34, 0x12]) (block 0x01 [])) .ok O :=
  ⟨_, ⟨_, rfl, rfl⟩, ⟨_, rfl, rfl⟩⟩

theorem good_markers : good.length = 19 ∧ MarkersOk good ∧ AddressOk good ∧ EchoOk 0x03 good := by
  unfold MarkersOk AddressOk EchoOk
  decide

theorem good_complements : ComplementsOk good := by
  intro k hk
  match k, hk with
  | 0, _ | 1, _ | 2, _ | 3, _ => exact ⟨_, rfl, rfl⟩

theorem witness_DecrMarkerMismatchIsInvalidFrame :
    (good.set 17 0xAB).length = 19 ∧ ¬ MarkersOk (good.set 17 0xAB) ∧ ¬ MarkersOk (good.set 0 0x50) ∧
    ¬ MarkersOk ((good.set 7 0x02).set 8 0xFD) := by
  unfold MarkersOk
  decide

/-- Both clauses: bytes 3–4 equal to a device address 0x01 and its complement, and the good frame. -/
theorem witness_DecrAddressMismatchIsInvalidAddress :
    MarkersOk ((good.set 3 0x01).set 4 0xFE) ∧ ¬ AddressOk ((good.set 3 0x01).set 4 0xFE) ∧ AddressOk good := by
  unfold MarkersOk AddressOk
  decide

theorem witness_DecrComplementMismatchIsInvalidComplement :
    (good.set 16 0x00).length = 19 ∧ MarkersOk (good.set 16 0x00) ∧ AddressOk (good.set 16 0x00) ∧
    EchoOk 0x03 (good.set 16 0x00) := by
  unfold MarkersOk AddressOk EchoOk
  decide

theorem bad_complement : ¬ ComplementsOk (good.set 16 0x00) := by
  intro h
  obtain ⟨v, h1, h2⟩ := h 3 (by decide)
  cases h1
  exact absurd h2 (by decide)

theorem witness_DecrReturnsTheDataBytesInFrameOrder :
    (good.length = 19 ∧ MarkersOk good ∧ AddressOk good ∧ EchoOk 0x03 good) ∧ ComplementsOk good :=
  ⟨good_markers, good_complements⟩

/-- The clauses of the check order, one frame each. -/
theorem witness_DecrReportsTheFirstFailingCheck :
    (good ++ [0x00]).length ≠ 19 ∧ ¬ MarkersOk (good.set 17 0xAB) ∧
    (MarkersOk (good.set 3 0x01) ∧ ¬ AddressOk (good.set 3 0x01)) ∧
    (MarkersOk (good.set 6 0xFD) ∧ AddressOk (good.set 6 0xFD) ∧ ¬ EchoOk 0x03 (good.set 6 0xFD)) := by
  unfold MarkersOk AddressOk EchoOk
  decide

theorem witness_DecrReportsTheFirstFailingCheck_complements :
    (MarkersOk (good.set 16 0x00) ∧ AddressOk (good.set 16 0x00) ∧ EchoOk 0x03 (good.set 16 0x00) ∧
      ¬ ComplementsOk (good.set 16 0x00)) ∧
    (MarkersOk good ∧ AddressOk good ∧ EchoOk 0x03 good ∧ ComplementsOk good) :=
  ⟨⟨witness_DecrComplementMismatchIsInvalidComplement.2.1, witness_DecrComplementMismatchIsInvalidComplement.2.2.1,
    witness_DecrComplementMismatchIsInvalidComplement.2.2.2, bad_complement⟩,
   good_markers.2.1, good_markers.2.2.1, good_markers.2.2.2, good_complements⟩

/-- The third clause: a frame that is not accepted. -/
theorem witness_DecrAcceptsExactlyTheWellFormedResponses :
    ¬ ∃ data, Answers (exec (.decr 0x03 []) program) .ok data := by
  rintro ⟨data, s', h, hres⟩
  cases h
  cases hres

/-- A bit at either end of the frame, and of a byte. -/
theorem witness_SingleBitFlipIsRejectedByField :
    0 < 19 ∧ 18 < 19 ∧ 0 < 8 ∧ 7 < 8 ∧ Answers (exec (.decr 0x03 good) program) .ok [0x10, 0x27, 0x00, 0x00] :=
  ⟨by decide, by decide, by decide, by decide, _, rfl, rfl⟩

theorem witness_MaskedComparisonIsPerPosition : good.length = 19 ∧ mReg ∈ [mFrame, mAddr, mReg] := by decide

theorem witness_DecwAcceptsExactlyTheAcknowledge :
    ([0x11, 0x11] : List Byte) ≠ [0x11, 0x11, 0x11] ∧ ([0x11, 0x11, 0x11, 0x11] : List Byte) ≠ [0x11, 0x11, 0x11] := by
  decide

theorem witness_AnErrorLeavesNothingBehind :
    exec (.decw []) program = .next (deliver (.err .invalidResponse) [] program) ∧
    (deliver (.err .invalidResponse) [] program).res = some ⟨.err .invalidResponse, []⟩ := ⟨rfl, rfl⟩

theorem witness_StatusCodesAreTheListedOnes : 9 ≤ (9 : BitVec 4).toNat ∧ 9 ≤ (15 : BitVec 4).toNat := by decide

theorem witness_EachOperationRaisesOnlyItsOwnErrors :
    Answers (exec (.encw 0x05 [0x01]) program) (.err .oddPayload) [] ∧
    Answers (exec (.decr 0x05 []) program) (.err .invalidFrame) [] ∧
    Answers (exec (.decw []) program) (.err .invalidResponse) [] := ⟨⟨_, rfl, rfl⟩, ⟨_, rfl, rfl⟩, ⟨_, rfl, rfl⟩⟩

theorem witness_EveryAdmittedRequestCompletes :
    program.requests = ⟨0x1003, []⟩ :: [⟨0x3003, good⟩] ∧ Request.wf ⟨0x1003, []⟩ = true := by decide

/-- The third clause: a DECW that answers an error, with an ENCR behind it. -/
theorem witness_ErrorsCompleteAndOnlyReservedRequestsAreRefused :
    (block 0x01 [⟨0x4000, []⟩, ⟨0x1003, []⟩]).requests = ⟨0x4000, []⟩ :: [⟨0x1003, []⟩] ∧
    (∃ s', step (block 0x01 [⟨0x4000, []⟩, ⟨0x1003, []⟩]) = .next s' ∧
      s'.res = some ⟨.err .invalidResponse, []⟩) ∧ Request.wf ⟨0x1003, []⟩ = true :=
  ⟨rfl, ⟨_, rfl, rfl⟩, by decide⟩

theorem witness_EveryOperationKeepsItsFrame : ∃ s', exec (.encr 0x03) program = .next s' := ⟨_, rfl⟩

theorem witness_ResultDependsOnlyOnDeviceAddrAndRequest :
    ∃ s₁' s₂', step program = .next s₁' ∧ step (block 0x01 [⟨0x1003, []⟩]) = .next s₂' ∧
      program.deviceAddr = (block 0x01 [⟨0x1003, []⟩]).deviceAddr := ⟨_, _, rfl, rfl, rfl⟩

theorem witness_DecodersIgnoreDeviceAddr :
    Answers (exec (.decr 0x03 good) (block 0x02 [])) .ok [0x10, 0x27, 0x00, 0x00] ∧
    Answers (exec (.decw [0x11, 0x11, 0x11]) (block 0x02 [])) .ok [] := ⟨⟨_, rfl, rfl⟩, ⟨_, rfl, rfl⟩⟩

theorem witness_EachTransactionHasItsResultAlone :
    Admitted program ∧ program.requests[1]? = some ⟨0x3003, good⟩ ∧
    (block 0x01 [⟨0x3003, good⟩]).requests = ⟨0x3003, good⟩ :: [] ∧
    (block 0x01 [⟨0x3003, good⟩]).deviceAddr = program.deviceAddr := by
  unfold Admitted
  decide

theorem witness_AdmittedProgramRunsToItsEnd : Admitted program := witness_EachTransactionHasItsResultAlone.1

/-- A reserved request behind an admitted one, and one at the head of the program. -/
theorem witness_RefusalStaysForTheWholeRun :
    (∀ p ∈ (block 0x01 [⟨0x1003, []⟩, ⟨0x4001, []⟩]).requests.take 1, p.wf = true) ∧
    (block 0x01 [⟨0x1003, []⟩, ⟨0x4001, []⟩]).requests[1]? = some ⟨0x4001, []⟩ ∧
    decode ⟨0x4001, []⟩ = .error .ackRegister ∧
    (∀ p ∈ (block 0x01 [⟨0x4001, []⟩]).requests.take 0, p.wf = true) ∧
    (block 0x01 [⟨0x4001, []⟩]).requests[0]? = some ⟨0x4001, []⟩ := by decide

theorem witness_StepKeepsTheResultLegal : Inv program ∧ ∃ s', step program = .next s' :=
  ⟨(fun _ h => nomatch h), _, rfl⟩

theorem witness_DeviceAddrIsFixedForTheRun : ∃ s', run 1 program = .next s' := ⟨_, rfl⟩

theorem witness_ResetChangesNoLaterResult : Request.wf ⟨0x4000, [0x11, 0x11, 0x11]⟩ = true := by decide

/-- A write issued twice, as at t = 2 and t = 4 of P2. -/
theorem witness_ReissuedRequestGivesTheSameResult :
    ∃ s s₁ s₂ : State, s.requests = ⟨0x2020, [0xE8, 0x03]⟩ :: ⟨0x2020, [0xE8, 0x03]⟩ :: [] ∧
      step s = .next s₁ ∧ step s₁ = .next s₂ :=
  ⟨block 0x01 [⟨0x2020, [0xE8, 0x03]⟩, ⟨0x2020, [0xE8, 0x03]⟩], _, _, rfl, rfl, rfl⟩

/-- P5 of section 3: device address 0x00. -/
theorem witness_WriteCommandPassesAsResponseExactlyFromMaster :
    Answers (exec (.encw 0x31 [0x18, 0xFC, 0xFF, 0xFF]) (block 0x00 [])) .ok
      [0x52, 0x52, 0x52, 0x00, 0xFF, 0x31, 0xCE, 0x04, 0xFB, 0x18, 0xE7, 0xFC, 0x03, 0xFF, 0x00, 0xFF, 0x00,
        0xAA, 0xAA] := ⟨_, rfl, rfl⟩

end Sys2Proof.Tests
end

section
/-! SUPPORT. What an operation answers, read off its codec result; the layout of the write command; and the
command and acknowledge formats of 30_encoding.md. -/

namespace Sys2Proof.Proofs

open Sys2Proof Sys2Proof.Machine Sys2Proof.Safety

/-! ### From the codec result to the result channel -/

theorem answers_ok_iff (i : Instr) (s : State) (data : List Byte) :
    Answers (exec i s) .ok data ↔ codecResult s.deviceAddr i = .ok data := by
  rw [exec_eq_respond]
  cases codecResult s.deviceAddr i <;> simp [Answers, respond_eq]

theorem answers_err_iff (i : Instr) (s : State) (kind : ErrorKind) (data : List Byte) :
    Answers (exec i s) (.err kind) data ↔ codecResult s.deviceAddr i = .error kind ∧ data = [] := by
  rw [exec_eq_respond]
  cases codecResult s.deviceAddr i <;> simp [Answers, respond_eq, eq_comm]

/-! ### The operations' codec results -/

theorem encodeRead_eq (a r : Byte) :
    encodeRead a r = [0x50, 0x50, 0x50, a, a ^^^ 0xFF, r, r ^^^ 0xFF, 0xAA, 0xAA] := rfl

/-- ENCW accepts exactly the even lengths of at most 254 (40_encoder.md R72); R76's register check
never fails. -/
theorem encodeWrite_ok_iff (a r : Byte) (P O : List Byte) :
    encodeWrite a r P = .ok O ↔ P.length % 2 = 0 ∧ P.length ≤ 254 ∧ O = writeCommand a r P := by
  have hreg : ¬ maxRegister < r.toNat := by have := r.isLt; simp only [maxRegister]; omega
  rw [encodeWrite, if_neg hreg]
  by_cases hodd : P.length % 2 = 1
  · simp [hodd]
  · by_cases hlong : maxPayload < P.length
    · simp only [hodd, hlong, if_true, if_false, reduceCtorEq, false_iff]
      simp only [maxPayload] at hlong
      omega
    · simp only [hodd, hlong, if_false, Except.ok.injEq]
      simp only [maxPayload] at hlong
      constructor
      · exact fun hO => ⟨by omega, by omega, hO.symm⟩
      · exact fun ⟨_, _, hO⟩ => hO.symm

theorem decodeWriteResponse_acknowledge : decodeWriteResponse [0x11, 0x11, 0x11] = .ok [] := rfl

theorem decodeWriteResponse_of_ne (F : List Byte) (h : F ≠ [0x11, 0x11, 0x11]) :
    decodeWriteResponse F = .error .invalidResponse := if_pos h

/-! ### The layout of the write command -/

/-- Bytes 0–8 of a write command (30_encoding.md R51). -/
def writeHead (a r : Byte) (L : Nat) : List Byte :=
  [0x52, 0x52, 0x52, a, a ^^^ 0xFF, r, r ^^^ 0xFF, BitVec.ofNat 8 L, BitVec.ofNat 8 L ^^^ 0xFF]

@[simp] theorem length_writeHead (a r : Byte) (L : Nat) : (writeHead a r L).length = 9 := rfl

/-- A write command is its nine-byte head, the paired payload and the terminator (30_encoding.md R51). -/
theorem writeCommand_eq (a r : Byte) (P : List Byte) :
    writeCommand a r P = writeHead a r P.length ++ (P.flatMap pair ++ [0xAA, 0xAA]) := rfl

theorem length_writeCommand (a r : Byte) (P : List Byte) :
    (writeCommand a r P).length = 11 + 2 * P.length := by
  simp only [writeCommand_eq, List.length_append, length_writeHead, length_flatMap_pair,
    List.length_cons, List.length_nil]
  omega

theorem take_writeCommand (a r : Byte) (P : List Byte) :
    (writeCommand a r P).take 9 = writeHead a r P.length :=
  List.take_left' (length_writeHead a r P.length)

theorem drop_writeCommand (a r : Byte) (P : List Byte) :
    (writeCommand a r P).drop (9 + 2 * P.length) = [0xAA, 0xAA] := by
  rw [writeCommand_eq, ← List.append_assoc]
  exact List.drop_left' (by rw [List.length_append, length_writeHead, length_flatMap_pair])

/-- From byte 9 on stands the paired payload. -/
theorem getElem?_writeCommand (a r : Byte) (P : List Byte) (k : Nat) (hk : k < 2 * P.length) :
    (writeCommand a r P)[9 + k]? = (P.flatMap pair)[k]? := by
  rw [writeCommand_eq, List.getElem?_append_right (by simp), length_writeHead, Nat.add_sub_cancel_left,
    List.getElem?_append_left (by rwa [length_flatMap_pair])]

theorem getElem?_writeCommand_data (a r : Byte) (P : List Byte) (j : Nat) (hj : j < P.length) :
    (writeCommand a r P)[9 + 2 * j]? = P[j]? := by
  rw [getElem?_writeCommand a r P _ (by omega), getElem?_flatMap_pair_even]

theorem getElem?_writeCommand_complement (a r : Byte) (P : List Byte) (j : Nat) (hj : j < P.length) :
    (writeCommand a r P)[10 + 2 * j]? = P[j]?.map comp := by
  rw [show 10 + 2 * j = 9 + (2 * j + 1) by omega, getElem?_writeCommand a r P _ (by omega),
    getElem?_flatMap_pair_odd]

/-! ### The obligations -/

/-- Settles O10: ENCW's frame is `writeCommand`, whose layout the lemmas above give part by part. -/
theorem encwBuildsTheWriteCommand : Obligations.EncwBuildsTheWriteCommand := by
  intro s r P heven hle
  refine ⟨writeCommand s.deviceAddr r P, ?_, length_writeCommand _ _ _, take_writeCommand _ _ _, ?_,
    drop_writeCommand _ _ _⟩
  · exact (answers_ok_iff _ _ _).mpr ((encodeWrite_ok_iff _ _ _ _).mpr ⟨heven, hle, rfl⟩)
  · intro j v hv
    have hj : j < P.length := (List.getElem?_eq_some_iff.mp hv).1
    rw [getElem?_writeCommand_data _ _ _ _ hj, getElem?_writeCommand_complement _ _ _ _ hj, hv]
    exact ⟨rfl, rfl⟩

/-- Settles O9: ENCR checks nothing and delivers `encodeRead`. -/
theorem encrBuildsTheReadCommand : Obligations.EncrBuildsTheReadCommand := fun s r =>
  (answers_ok_iff _ _ _).mpr (congrArg Except.ok (encodeRead_eq s.deviceAddr r))

/-- Settles O26: DECW compares the whole frame with the acknowledge. -/
theorem decwAcceptsExactlyTheAcknowledge : Obligations.DecwAcceptsExactlyTheAcknowledge := by
  intro s F
  constructor
  · rintro rfl
    exact (answers_ok_iff _ _ _).mpr decodeWriteResponse_acknowledge
  · intro hF
    exact (answers_err_iff _ _ _ _).mpr ⟨decodeWriteResponse_of_ne F hF, rfl⟩

end Sys2Proof.Proofs
end

section
/-! SUPPORT. Which error kinds each codec function can raise (60_exceptions.md R93, column "raised by"), and
that `InvalidParameter` is none of them (40_encoder.md R76). -/

namespace Sys2Proof.Proofs

open Sys2Proof Sys2Proof.Machine Sys2Proof.Safety

/-! ### The error kinds of each operation -/

/-- A register address is a byte, so ENCW's register check never fails (40_encoder.md R76). -/
theorem not_maxRegister_lt (r : Byte) : ¬ maxRegister < r.toNat := Nat.not_lt.mpr (Nat.le_of_lt_succ r.isLt)

theorem encodeWrite_error (a r : Byte) (P : List Byte) (kind : ErrorKind)
    (h : encodeWrite a r P = .error kind) : kind ∈ [.oddPayload, .payloadTooLarge] := by
  rw [encodeWrite, if_neg (not_maxRegister_lt r)] at h
  split at h
  case isTrue => cases h; decide
  case isFalse =>
    split at h
    case isTrue => cases h; decide
    case isFalse => cases h

theorem checkComplements_error (trailing : List Byte) (kind : ErrorKind)
    (h : checkComplements trailing = .error kind) : kind = .invalidComplement := by
  simp only [checkComplements] at h
  split at h
  case isTrue => cases h
  case isFalse => cases h; rfl

theorem decodeReadResponse_error (r : Byte) (F : List Byte) (kind : ErrorKind)
    (h : decodeReadResponse r F = .error kind) :
    kind ∈ [.invalidFrame, .invalidAddress, .invalidRegisterEcho, .invalidComplement] := by
  rw [decodeReadResponse] at h
  split_ifs at h
  -- the failed checks: length, frame markers, address, register echo
  case pos | pos | pos | pos => cases h; decide
  case neg =>
    split at h
    · cases checkComplements_error _ kind h; decide
    · cases h; decide

theorem decodeWriteResponse_error (F : List Byte) (kind : ErrorKind)
    (h : decodeWriteResponse F = .error kind) : kind = .invalidResponse := by
  rw [decodeWriteResponse] at h
  split at h
  case isTrue => cases h; rfl
  case isFalse => cases h

theorem codecResult_ne_invalidParameter (a : Byte) (i : Instr) :
    codecResult a i ≠ .error .invalidParameter := by
  intro h
  cases i with
  | encr reg => cases h
  | encw reg payload => exact absurd (encodeWrite_error _ _ _ _ h) (by decide)
  | decr reg frame => exact absurd (decodeReadResponse_error _ _ _ h) (by decide)
  | decw frame => exact absurd (decodeWriteResponse_error _ _ h) (by decide)

/-! ### The obligation -/

/-- Settles O13: an error answer is the codec's error, which is never `InvalidParameter`; its code is 1. -/
theorem invalidParameterIsUnreachable : Obligations.InvalidParameterIsUnreachable :=
  ⟨fun i s data h => codecResult_ne_invalidParameter s.deviceAddr i ((answers_err_iff i s _ data).mp h).1,
    1, rfl⟩

end Sys2Proof.Proofs
end

section
/-! SUPPORT. DECR's masked comparisons as the frame fields they select, its complement check as "the frame
part is a paired sequence", and DECR on a frame that passes the first checks (41_decoder.md R81 to R85). -/

namespace Sys2Proof.Proofs

open Sys2Proof Sys2Proof.Machine Sys2Proof.Safety

/-! ### The masked comparisons -/

theorem and_fullMask (v : Byte) : v &&& 0xFF#8 = v := BitVec.and_allOnes

/-- A frame of the response length, byte by byte. -/
theorem forall_of_length_eq_19 {P : (F : List Byte) → F.length = 19 → Prop}
    (h : ∀ b0 b1 b2 b3 b4 b5 b6 b7 b8 b9 b10 b11 b12 b13 b14 b15 b16 b17 b18,
      P [b0, b1, b2, b3, b4, b5, b6, b7, b8, b9, b10, b11, b12, b13, b14, b15, b16, b17, b18] rfl)
    (F : List Byte) (hF : F.length = 19) : P F hF := by
  match F, hF with
  | [_, _, _, _, _, _, _, _, _, _, _, _, _, _, _, _, _, _, _], _ => apply h

/-- `M_FRAME` selects the markers (R81). -/
theorem maskedEq_mFrame_iff (r : Byte) (F : List Byte) (hF : F.length = 19) :
    maskedEq F (template r) mFrame = true ↔ MarkersOk F := by
  induction F, hF using forall_of_length_eq_19 with
  | h =>
    simp [maskedEq, masked, template, mFrame, MarkersOk, and_fullMask, syncResp, respLen, respLenC, terminator,
      and_assoc]

/-- `M_ADDR` selects the address field (R82). -/
theorem maskedEq_mAddr_iff (r : Byte) (F : List Byte) (hF : F.length = 19) :
    maskedEq F (template r) mAddr = true ↔ AddressOk F := by
  induction F, hF using forall_of_length_eq_19 with
  | h => simp [maskedEq, masked, template, mAddr, AddressOk, and_fullMask, respAddr, respAddrC]

/-- `M_REG` selects the register echo and its complement (R83). -/
theorem maskedEq_mReg_iff (r : Byte) (F : List Byte) (hF : F.length = 19) :
    maskedEq F (template r) mReg = true ↔ EchoOk r F := by
  induction F, hF using forall_of_length_eq_19 with
  | h => simp [maskedEq, masked, template, mReg, EchoOk, and_fullMask, comp]

/-! ### The complement check -/

/-- The converse of `splitAlternating_flatMap_pair`: when the odd positions complement the even ones, the
sequence is the even positions, paired. -/
theorem eq_flatMap_pair_of_splitAlternating (S : List Byte)
    (h : (splitAlternating S).2 = (splitAlternating S).1.map comp) :
    S = (splitAlternating S).1.flatMap pair := by
  induction S using splitAlternating.induct with
  | case1 d c rest ih =>
    simp only [splitAlternating, List.map_cons, List.cons.injEq] at h
    obtain ⟨hc, hrest⟩ := h
    simpa [splitAlternating, pair, hc] using ih hrest
  | case2 d => simp [splitAlternating] at h
  | case3 => rfl

/-- The complement check passes exactly the paired sequences, and gives back what was paired (R84, R85). -/
theorem checkComplements_ok_iff (S D : List Byte) : checkComplements S = .ok D ↔ S = D.flatMap pair := by
  constructor
  · intro h
    simp only [checkComplements] at h
    split at h
    case isTrue hcomp => cases h; exact eq_flatMap_pair_of_splitAlternating S hcomp
    case isFalse => cases h
  · rintro rfl
    simp [checkComplements, splitAlternating_flatMap_pair]

theorem checkComplements_error_iff (S : List Byte) :
    checkComplements S = .error .invalidComplement ↔ ¬ ∃ D : List Byte, S = D.flatMap pair := by
  simp only [← checkComplements_ok_iff]
  cases h : checkComplements S with
  | ok D => simp
  | error kind => simp [checkComplements_error S kind h]

/-- A sequence of `2n` bytes is a paired sequence exactly when a pair stands at each even position. -/
theorem exists_eq_flatMap_pair_iff (n : Nat) (S : List Byte) (hS : S.length = 2 * n) :
    (∃ D : List Byte, S = D.flatMap pair) ↔ ∀ k < n, PairAt S (2 * k) := by
  constructor
  · rintro ⟨D, rfl⟩ k hk
    rw [length_flatMap_pair] at hS
    refine ⟨D[k], ?_, ?_⟩
    · rw [getElem?_flatMap_pair_even, List.getElem?_eq_getElem]
    · rw [getElem?_flatMap_pair_odd, List.getElem?_eq_getElem]; rfl
  · intro h
    induction n generalizing S with
    | zero => exact ⟨[], List.length_eq_zero_iff.mp hS⟩
    | succ n ih =>
      match S, hS with
      | d :: c :: S, hS =>
        obtain ⟨D, rfl⟩ := ih S (by simpa [Nat.mul_succ] using hS)
          fun k hk => by simpa [PairAt, Nat.mul_succ] using h (k + 1) (by omega)
        obtain ⟨v, hd, hc⟩ := h 0 (by omega)
        cases hd
        cases hc
        exact ⟨d :: D, rfl⟩

/-! ### DECR after its first four checks -/

/-- Bytes 9–16 of a read response: the data bytes and their complements (30_encoding.md R54). -/
def dataPart (F : List Byte) : List Byte := (F.drop 9).take 8

theorem length_dataPart (F : List Byte) (hF : F.length = 19) : (dataPart F).length = 8 := by
  simp [dataPart, hF]

theorem getElem?_dataPart (F : List Byte) (k : Nat) (hk : k < 8) : (dataPart F)[k]? = F[9 + k]? := by
  simp [dataPart, hk]

theorem pairAt_dataPart_iff (F : List Byte) (k : Nat) (hk : k < 4) :
    PairAt (dataPart F) (2 * k) ↔ PairAt F (9 + 2 * k) := by
  simp only [PairAt, getElem?_dataPart F (2 * k) (by omega), getElem?_dataPart F (2 * k + 1) (by omega),
    Nat.add_assoc]

theorem exists_dataPart_eq_iff (F : List Byte) (hF : F.length = 19) :
    (∃ D : List Byte, dataPart F = D.flatMap pair) ↔ ComplementsOk F := by
  rw [exists_eq_flatMap_pair_iff 4 _ (length_dataPart F hF)]
  exact forall₂_congr (pairAt_dataPart_iff F)

/-- With length, markers, address and echo right, the complement check of bytes 9–16 decides (R79). -/
theorem decodeReadResponse_eq_checkComplements (r : Byte) (F : List Byte) (hF : F.length = 19)
    (hmarkers : MarkersOk F) (haddr : AddressOk F) (hecho : EchoOk r F) :
    decodeReadResponse r F = checkComplements (dataPart F) := by
  have hread : memRead F 9 8 = some (dataPart F) := memRead_of_le F 9 8 (by omega)
  simp [decodeReadResponse, readResponseLength, hF, hread, (maskedEq_mFrame_iff r F hF).mpr hmarkers,
    (maskedEq_mAddr_iff r F hF).mpr haddr, (maskedEq_mReg_iff r F hF).mpr hecho]

/-! ### The obligations -/

/-- Settles O19: after the earlier checks DECR is its complement check, which fails exactly when bytes 9–16
are no paired sequence; an error carries no data. -/
theorem decrComplementMismatchIsInvalidComplement : Obligations.DecrComplementMismatchIsInvalidComplement := by
  intro s r F hF hmarkers haddr hecho
  constructor
  · calc Answers (exec (.decr r F) s) (.err .invalidComplement) []
      _ ↔ decodeReadResponse r F = .error .invalidComplement := by simp [answers_err_iff, codecResult]
      _ ↔ checkComplements (dataPart F) = .error .invalidComplement := by
        rw [decodeReadResponse_eq_checkComplements r F hF hmarkers haddr hecho]
      _ ↔ ¬ ∃ D : List Byte, dataPart F = D.flatMap pair := checkComplements_error_iff _
      _ ↔ ¬ ComplementsOk F := not_congr (exists_dataPart_eq_iff F hF)
  · exact fun data h => ((answers_err_iff _ _ _ _).mp h).2

/-- Settles O20: bytes 9–16 are the pairing of the four bytes DECR delivers, so these stand at its even
positions. -/
theorem decrReturnsTheDataBytesInFrameOrder : Obligations.DecrReturnsTheDataBytesInFrameOrder := by
  intro s r F hF hmarkers haddr hecho hcomp
  obtain ⟨D, hD⟩ := (exists_dataPart_eq_iff F hF).mpr hcomp
  refine ⟨D, (answers_ok_iff _ _ _).mpr ?_, ?_, ?_⟩
  · exact (decodeReadResponse_eq_checkComplements r F hF hmarkers haddr hecho).trans
      ((checkComplements_ok_iff _ _).mpr hD)
  · have hlen := length_dataPart F hF
    rw [hD, length_flatMap_pair] at hlen
    omega
  · intro k hk
    rw [← getElem?_flatMap_pair_even D k, ← hD, getElem?_dataPart F _ (by omega)]

end Sys2Proof.Proofs
end

section
/-! SUPPORT. What every operation leaves unchanged, whether it succeeds or ends in an error (10_state.md R14,
R18), and that an error leaves nothing behind (60_exceptions.md R96, R100). -/

namespace Sys2Proof.Proofs

open Sys2Proof Sys2Proof.Machine Sys2Proof.Safety

/-! ### The frame of an operation -/

/-- An operation's whole effect on the state is the delivery of one result. -/
theorem exec_next_eq_deliver (i : Instr) (s s' : State) (h : exec i s = .next s') :
    ∃ status data, s' = deliver status data s := by
  obtain ⟨data, -, hs'⟩ | ⟨kind, -, hs'⟩ := exec_next i s s' h
  · exact ⟨.ok, data, hs'⟩
  · exact ⟨.err kind, [], hs'⟩

/-! ### The obligation -/

/-- Settles O27: an error answer carries no data, and an operation, failing or not, only delivers, which
touches neither `DEVICE_ADDR` nor the host's requests. -/
theorem anErrorLeavesNothingBehind : Obligations.AnErrorLeavesNothingBehind := by
  intro i s s' kind data hexec hres
  have hanswers : Answers (exec i s) (.err kind) data := ⟨s', hexec, hres⟩
  have hdata : data = [] := ((answers_err_iff i s kind data).mp hanswers).2
  obtain ⟨_, _, rfl⟩ := exec_next_eq_deliver i s s' hexec
  exact ⟨hdata, deliver_deviceAddr .., deliver_requests ..⟩

end Sys2Proof.Proofs
end

section
/-! SUPPORT. The request encoding both ways: encode and decode are inverse on the admitted requests, so the
decoder's answers are the encoder's header words (30_encoding.md R44 to R46, R62, R68). -/

namespace Sys2Proof.Proofs

open Sys2Proof Sys2Proof.Machine Sys2Proof.Safety

/-! ### Encode and decode are inverse -/

theorem op_headerOf (o : BitVec 4) (r : Byte) (data : List Byte) : Request.op ⟨headerOf o r, data⟩ = o :=
  headerOf_op o r

theorem rsv_headerOf (o : BitVec 4) (r : Byte) (data : List Byte) : Request.rsv ⟨headerOf o r, data⟩ = 0#4 :=
  headerOf_rsv o r

theorem reg_headerOf (o : BitVec 4) (r : Byte) (data : List Byte) : Request.reg ⟨headerOf o r, data⟩ = r :=
  headerOf_reg o r

/-- A request with `RSV` = 0000 is its operation code, its register and its data. -/
theorem request_eq_headerOf (q : Request) (hrsv : q.rsv = 0#4) : ⟨headerOf q.op q.reg, q.data⟩ = q :=
  congrArg (Request.mk · q.data) (headerOf_fields q.hdr hrsv)

theorem decode_encode (i : Instr) : decode (encode i) = .ok i := by
  cases i with
  | encr reg => simp [encode, decode, op_headerOf, rsv_headerOf, reg_headerOf]
  | encw reg payload => simp [encode, decode, op_headerOf, rsv_headerOf, reg_headerOf, opEncr, opEncw]
  | decr reg frame => simp [encode, decode, op_headerOf, rsv_headerOf, reg_headerOf, opEncr, opEncw, opDecr]
  | decw frame => simp [encode, decode, op_headerOf, rsv_headerOf, reg_headerOf, opEncr, opEncw, opDecr, opDecw]

theorem encode_of_decode (q : Request) (i : Instr) (h : decode q = .ok i) : encode i = q := by
  rcases decode_cases q with ⟨_, hd⟩ | ⟨hrsv, hop, hdata, hd⟩ | ⟨_, _, _, hd⟩ | ⟨hrsv, hop, hd⟩ |
    ⟨hrsv, hop, hd⟩ | ⟨hrsv, hop, hreg, hd⟩ | ⟨_, _, _, hd⟩ | ⟨_, _, _, _, _, hd⟩
  -- RSV not 0
  · cases hd.symm.trans h
  -- ENCR without and with data
  · cases hd.symm.trans h; rw [encode, ← hop, ← hdata, request_eq_headerOf q hrsv]
  · cases hd.symm.trans h
  -- ENCW, DECR
  · cases hd.symm.trans h; rw [encode, ← hop, request_eq_headerOf q hrsv]
  · cases hd.symm.trans h; rw [encode, ← hop, request_eq_headerOf q hrsv]
  -- DECW with REG 0 and not 0
  · cases hd.symm.trans h; rw [encode, ← hop, ← hreg, request_eq_headerOf q hrsv]
  · cases hd.symm.trans h
  -- OP of no operation
  · cases hd.symm.trans h

theorem decode_eq_ok_iff (q : Request) (i : Instr) : decode q = .ok i ↔ q = encode i :=
  ⟨fun h => (encode_of_decode q i h).symm, fun h => h ▸ decode_encode i⟩

/-! ### Header words under a row's mask -/

theorem getLsbD_rowMask : ∀ i < 16, (0xFF00#16).getLsbD i = decide (8 ≤ i) := by decide

/-- The row mask drops `REG` and keeps the rest of a header word. -/
theorem headerOf_and_rowMask (o : BitVec 4) (r : Byte) : headerOf o r &&& 0xFF00 = headerOf o 0 := by
  apply BitVec.eq_of_getLsbD_eq
  intro i hi
  by_cases h8 : i < 8
  · simp [headerOf, getLsbD_rowMask i hi, h8, show i < 12 by omega]
  · simp [headerOf, getLsbD_rowMask i hi, show 8 ≤ i by omega]

/-- A header word is its bits under the row mask and its low byte (R68). -/
theorem header_ext (h g : Header) (hmask : h &&& 0xFF00 = g &&& 0xFF00) (hlow : h.setWidth 8 = g.setWidth 8) :
    h = g := by
  apply BitVec.eq_of_getLsbD_eq
  intro i hi
  by_cases h8 : i < 8
  · simpa [h8] using congrArg (BitVec.getLsbD · i) hlow
  · simpa [getLsbD_rowMask i hi, show 8 ≤ i by omega] using congrArg (BitVec.getLsbD · i) hmask

/-- The row of an operation that takes a register selects exactly its header words (R45, R68). -/
theorem eq_headerOf_iff (h : Header) (o : BitVec 4) (r : Byte) :
    h = headerOf o r ↔ h &&& 0xFF00 = headerOf o 0 ∧ r = h.setWidth 8 := by
  have hlow : (headerOf o r).setWidth 8 = r := by
    rw [BitVec.setWidth_eq_extractLsb' (by omega), headerOf_reg]
  constructor
  · rintro rfl
    exact ⟨headerOf_and_rowMask o r, hlow.symm⟩
  · rintro ⟨hmask, hr⟩
    exact header_ext _ _ (hmask.trans (headerOf_and_rowMask o r).symm) (hr.symm.trans hlow.symm)

theorem request_eq_mk_iff (q : Request) (h : Header) (data : List Byte) :
    q = ⟨h, data⟩ ↔ q.hdr = h ∧ q.data = data := by
  cases q; simp

/-! ### The obligations -/

/-- Settles O4, by the operation's constructor: each field of the header word reads back as it was written. -/
theorem decodeOfEncodeIsTheOperation : Obligations.DecodeOfEncodeIsTheOperation := decode_encode

/-- Settles O5: an admitted request has `RSV` = 0000, so its `OP`, `REG` and data are all of it. -/
theorem encodeOfDecodeIsTheRequest : Obligations.EncodeOfDecodeIsTheRequest := encode_of_decode

/-- Settles O7: a request decodes to an operation exactly when it is the operation's encoding, and a header
is that encoding's exactly when the row's mask and the low byte say so; the row's match is the header word
with `REG` 00. -/
theorem decoderFollowsTheOpcodeTable : Obligations.DecoderFollowsTheOpcodeTable := by
  intro q
  refine ⟨fun r => ?_, fun r P => ?_, fun r F => ?_, fun F => ?_⟩
  · rw [decode_eq_ok_iff, encode, request_eq_mk_iff, eq_headerOf_iff, and_assoc]; rfl
  · rw [decode_eq_ok_iff, encode, request_eq_mk_iff, eq_headerOf_iff, and_assoc, eq_comm (a := P)]; rfl
  · rw [decode_eq_ok_iff, encode, request_eq_mk_iff, eq_headerOf_iff, and_assoc, eq_comm (a := F)]; rfl
  · have hfull : q.hdr &&& 0xFFFF = q.hdr := BitVec.and_allOnes
    rw [decode_eq_ok_iff, encode, request_eq_mk_iff, eq_comm (a := F), hfull]; rfl

/-- Settles O6: ten closed evaluations of the decoder. -/
theorem headerWordsDecodeAsListed : Obligations.HeaderWordsDecodeAsListed := by
  unfold Obligations.HeaderWordsDecodeAsListed
  decide

end Sys2Proof.Proofs
end

section
/-! SUPPORT. One transaction: what an operation delivers, as a function of `DEVICE_ADDR` and the operation
(10_state.md R14), and the state after a step, as a function of the request at the head. -/

namespace Sys2Proof.Proofs

open Sys2Proof Sys2Proof.Machine Sys2Proof.Safety

/-! ### The result of an operation and the state after it -/

/-- What the result channel carries for a computed result: `OK` with the data, or an error kind with none
(00_scope.md R11, 60_exceptions.md R96). -/
def toResponse : Except ErrorKind (List Byte) → Response
  | .ok data => ⟨.ok, data⟩
  | .error kind => ⟨.err kind, []⟩

/-- The result of an operation for a device address (10_state.md R13, R14). -/
def responseOf (a : Byte) (i : Instr) : Response := toResponse (codecResult a i)

theorem respond_eq_next (result : Except ErrorKind (List Byte)) (s : State) :
    respond result s = .next { s with res := some (toResponse result), t := s.t + 1 } := by
  cases result <;> rfl

/-- Every operation completes, delivers its result, and changes nothing else but the index. -/
theorem exec_eq_next (i : Instr) (s : State) :
    exec i s = .next { s with res := some (responseOf s.deviceAddr i), t := s.t + 1 } := by
  rw [exec_eq_respond, respond_eq_next, responseOf]

theorem answers_iff (i : Instr) (s : State) (status : Status) (data : List Byte) :
    Answers (exec i s) status data ↔ responseOf s.deviceAddr i = ⟨status, data⟩ := by
  simp [Answers, exec_eq_next]

/-! ### One step, by the request at the head -/

/-- The state after the transaction of operation `i`, with the requests `rest` still to come. -/
def afterTransaction (i : Instr) (rest : List Request) (s : State) : State :=
  ⟨s.deviceAddr, rest, some (responseOf s.deviceAddr i), s.t + 1⟩

section
variable (i : Instr) (rest : List Request) (s : State)

@[simp] theorem afterTransaction_deviceAddr : (afterTransaction i rest s).deviceAddr = s.deviceAddr := rfl
@[simp] theorem afterTransaction_requests : (afterTransaction i rest s).requests = rest := rfl
@[simp] theorem afterTransaction_res :
    (afterTransaction i rest s).res = some (responseOf s.deviceAddr i) := rfl
@[simp] theorem afterTransaction_t : (afterTransaction i rest s).t = s.t + 1 := rfl

end

theorem step_of_requests_nil (s : State) (hs : s.requests = []) : step s = .next s := by
  obtain ⟨_, hstep⟩ | ⟨_, _, _, hs', _⟩ | ⟨_, _, _, hs', _⟩ := step_cases s
  · exact hstep
  · cases hs.symm.trans hs'
  · cases hs.symm.trans hs'

section
variable {s : State} {q : Request} {rest : List Request} (hs : s.requests = q :: rest)
include hs

theorem step_of_decode_ok {i : Instr} (hi : decode q = .ok i) : step s = exec i { s with requests := rest } := by
  simp [step, fetch_cons s q rest hs, hi]

theorem step_of_decode_error {why : Reserved} (hwhy : decode q = .error why) :
    step s = .refused (.reservedRequest why) := by
  simp [step, fetch_cons s q rest hs, hwhy, refuseReserved]

theorem step_eq_afterTransaction {i : Instr} (hi : decode q = .ok i) :
    step s = .next (afterTransaction i rest s) :=
  (step_of_decode_ok hs hi).trans (exec_eq_next i _)

/-- A step of an admitted request completes its transaction. -/
theorem step_of_wf (hq : q.wf = true) :
    ∃ i, decode q = .ok i ∧ step s = .next (afterTransaction i rest s) := by
  obtain ⟨i, hi⟩ := (decode_ok_iff_wf q).mpr hq
  exact ⟨i, hi, step_eq_afterTransaction hs hi⟩

/-- A step that completes was the transaction of an admitted request. -/
theorem step_next_inv {s' : State} (h : step s = .next s') :
    ∃ i, decode q = .ok i ∧ s' = afterTransaction i rest s := by
  cases hd : decode q with
  | ok i => exact ⟨i, rfl, by simpa [eq_comm] using (step_eq_afterTransaction hs hd).symm.trans h⟩
  | error why => cases (step_of_decode_error hs hd).symm.trans h

theorem step_refused_iff (refusal : Refusal) :
    step s = .refused refusal ↔ ∃ why, refusal = .reservedRequest why ∧ decode q = .error why := by
  cases hd : decode q with
  | ok i => simp [step_eq_afterTransaction hs hd]
  | error why => simp [step_of_decode_error hs hd, eq_comm]

end

/-! ### The reserved requests, by the header as a number -/

theorem op_eq_iff (q : Request) (o : BitVec 4) : q.op = o ↔ q.hdr.toNat / 4096 = o.toNat := by
  rw [← op_toNat, BitVec.toNat_inj]

theorem rsv_eq_zero_iff (q : Request) : q.rsv = 0#4 ↔ q.hdr.toNat / 256 % 16 = 0 := by
  rw [← rsv_toNat, ← BitVec.toNat_inj]; rfl

theorem reg_eq_zero_iff (q : Request) : q.reg = 0#8 ↔ q.hdr.toNat % 256 = 0 := by
  rw [← reg_toNat, ← BitVec.toNat_inj]; rfl

/-- The decoder refuses exactly the reserved encodings of 30_encoding.md R46. -/
theorem decode_error_iff (q : Request) :
    (∃ why, decode q = .error why) ↔
      (q.hdr.toNat / 4096 = 0 ∨ 5 ≤ q.hdr.toNat / 4096 ∨ q.hdr.toNat / 256 % 16 ≠ 0 ∨
        (q.hdr.toNat / 4096 = 4 ∧ q.hdr.toNat % 256 ≠ 0) ∨ (q.hdr.toNat / 4096 = 1 ∧ q.data ≠ [])) := by
  have hcases := decode_cases q
  simp only [ne_eq, op_eq_iff, rsv_eq_zero_iff, reg_eq_zero_iff, opEncr, opEncw, opDecr, opDecw,
    BitVec.toNat_ofNat] at hcases
  rcases hcases with ⟨hrsv, hd⟩ | ⟨hrsv, hop, hdata, hd⟩ | ⟨hrsv, hop, hdata, hd⟩ | ⟨hrsv, hop, hd⟩ |
    ⟨hrsv, hop, hd⟩ | ⟨hrsv, hop, hreg, hd⟩ | ⟨hrsv, hop, hreg, hd⟩ | ⟨hrsv, h1, h2, h3, h4, hd⟩
  · simp [hd, hrsv]
  · simp [hd, hrsv, hop, hdata]
  · simp [hd, hop, hdata]
  · simp [hd, hrsv, hop]
  · simp [hd, hrsv, hop]
  · simp [hd, hrsv, hop, hreg]
  · simp [hd, hop, hreg]
  · simp only [hd, Except.error.injEq, exists_eq', true_iff]
    omega

/-! ### The obligations -/

/-- Settles O1: the step's equation at a request that decodes. -/
theorem stepRunsTheDecodedTransaction : Obligations.StepRunsTheDecodedTransaction :=
  fun _ _ _ _ hs hi => step_of_decode_ok hs hi

/-- Settles O2: with no request the step idles. -/
theorem stepWithoutRequestChangesNothing : Obligations.StepWithoutRequestChangesNothing :=
  step_of_requests_nil

/-- Settles O3: a step is refused exactly when the decoder refuses, and the decoder refuses exactly the
reserved encodings. -/
theorem stepRefusesExactlyTheReservedRequests : Obligations.StepRefusesExactlyTheReservedRequests := by
  intro s q rest hs
  rw [← decode_error_iff q]
  exact exists_congr fun why => by simp [step_refused_iff hs]

/-- Settles O30: the state after the transaction is `afterTransaction`, read field by field. -/
theorem everyAdmittedRequestCompletes : Obligations.EveryAdmittedRequestCompletes := by
  intro s q rest hs hq
  obtain ⟨i, -, hstep⟩ := step_of_wf hs hq
  exact ⟨_, responseOf s.deviceAddr i, hstep, rfl, rfl, rfl, rfl⟩

/-- Settles O31: the decoder's answer decides between completion and refusal; a completed transaction, in
error or not, leaves the next request at the head. -/
theorem errorsCompleteAndOnlyReservedRequestsAreRefused :
    Obligations.ErrorsCompleteAndOnlyReservedRequestsAreRefused := by
  intro s q rest hs
  refine ⟨⟨?_, ?_⟩, step_refused_iff hs, ?_⟩
  · rintro ⟨s', hstep⟩
    obtain ⟨i, hi, -⟩ := step_next_inv hs hstep
    exact (decode_ok_iff_wf q).mp ⟨i, hi⟩
  · intro hq
    obtain ⟨i, -, hstep⟩ := step_of_wf hs hq
    exact ⟨_, hstep⟩
  · intro s' kind data q' rest' hstep _ hrest hq'
    obtain ⟨i, -, rfl⟩ := step_next_inv hs hstep
    obtain ⟨i', -, hstep'⟩ := step_of_wf (s := afterTransaction i rest s) hrest hq'
    exact ⟨_, hstep', rfl⟩

/-- Settles O32: `exec_eq_next`, read field by field. -/
theorem everyOperationKeepsItsFrame : Obligations.EveryOperationKeepsItsFrame := by
  intro i s s' h
  cases (exec_eq_next i s).symm.trans h
  exact ⟨rfl, rfl, rfl, rfl⟩

/-- Settles O33: both results are `responseOf` of the same device address and the same operation. -/
theorem resultDependsOnlyOnDeviceAddrAndRequest : Obligations.ResultDependsOnlyOnDeviceAddrAndRequest := by
  intro s₁ s₂ s₁' s₂' q rest₁ rest₂ haddr hs₁ hs₂ hstep₁ hstep₂
  obtain ⟨i₁, hi₁, rfl⟩ := step_next_inv hs₁ hstep₁
  obtain ⟨i₂, hi₂, rfl⟩ := step_next_inv hs₂ hstep₂
  cases hi₁.symm.trans hi₂
  rw [afterTransaction_res, afterTransaction_res, haddr]

/-- Settles O34: the codec results of DECR and DECW do not mention the device address. -/
theorem decodersIgnoreDeviceAddr : Obligations.DecodersIgnoreDeviceAddr := by
  intro s₁ s₂ F status data
  simp only [answers_iff]
  exact ⟨fun _ => id, id⟩

/-- Settles O42: the reset keeps `DEVICE_ADDR`, on which alone, with the request, the result depends. -/
theorem resetChangesNoLaterResult : Obligations.ResetChangesNoLaterResult := by
  intro s q rest hq
  obtain ⟨i, hi⟩ := (decode_ok_iff_wf q).mpr hq
  exact ⟨rfl, rfl, _, _, step_eq_afterTransaction rfl hi, step_eq_afterTransaction rfl hi, rfl⟩

/-- Settles O43: after the first step the same request is at the head and `DEVICE_ADDR` is the same. -/
theorem reissuedRequestGivesTheSameResult : Obligations.ReissuedRequestGivesTheSameResult := by
  intro s s₁ s₂ q rest hs hstep₁ hstep₂
  obtain ⟨i, -, hs₁⟩ := step_next_inv hs hstep₁
  refine resultDependsOnlyOnDeviceAddrAndRequest s s₁ s₁ s₂ q (q :: rest) rest ?_ hs ?_ hstep₁ hstep₂
  · rw [hs₁, afterTransaction_deviceAddr]
  · rw [hs₁, afterTransaction_requests]

/-- Settles O41: the fields of the reset state. -/
theorem resetHoldsOnlyTheDeviceAddress : Obligations.ResetHoldsOnlyTheDeviceAddress := ⟨rfl, rfl, rfl, rfl⟩

end Sys2Proof.Proofs
end

section
/-! SUPPORT. Runs of more than one transaction: a run splits, admitted requests at the head of a program complete,
and what follows from it for whole programs (20_memory.md R40, 30_encoding.md R46). -/

namespace Sys2Proof.Proofs

open Sys2Proof Sys2Proof.Machine Sys2Proof.Safety

/-! ### Runs -/

/-- A run that completes `n` steps goes on from the state it has reached. -/
theorem run_add (n m : Nat) (s s' : State) (h : run n s = .next s') : run (n + m) s = run m s' := by
  induction n generalizing s with
  | zero => cases h; rw [Nat.zero_add]
  | succ n ih =>
    rw [Nat.add_right_comm]
    cases hstep : step s with
    | next s₁ =>
      rw [run_succ_next n s s₁ hstep] at h
      rw [run_succ_next (n + m) s s₁ hstep, ih s₁ h]
    | fault f => exact nomatch f
    | refused r => cases (run_succ_refused n s r hstep).symm.trans h

/-- The state after a run of `n` transactions: `n` requests are gone, and the index is `n` further. -/
structure AfterRun (n : Nat) (s s' : State) : Prop where
  run_eq : run n s = .next s'
  requests_eq : s'.requests = s.requests.drop n
  t_eq : s'.t = s.t + n
  deviceAddr_eq : s'.deviceAddr = s.deviceAddr

/-- A program runs for as long as its requests are admitted. -/
theorem exists_afterRun (n : Nat) (s : State) (hn : n ≤ s.requests.length)
    (hwf : ∀ q ∈ s.requests.take n, q.wf = true) : ∃ s', AfterRun n s s' := by
  induction n generalizing s with
  | zero => exact ⟨s, rfl, rfl, rfl, rfl⟩
  | succ n ih =>
    obtain ⟨q, rest, hs⟩ := List.exists_cons_of_length_pos (Nat.zero_lt_of_lt hn)
    rw [hs, List.length_cons, Nat.add_le_add_iff_right] at hn
    rw [hs, List.take_succ_cons, List.forall_mem_cons] at hwf
    obtain ⟨hq, hrest⟩ := hwf
    obtain ⟨i, -, hstep⟩ := step_of_wf hs hq
    obtain ⟨s', hrun, hreq, ht, haddr⟩ := ih (afterTransaction i rest s) hn hrest
    refine ⟨s', ?_, ?_, ?_, ?_⟩
    · rw [run_succ_next n s _ hstep, hrun]
    · rw [hreq, hs, afterTransaction_requests, List.drop_succ_cons]
    · rw [ht, afterTransaction_t, Nat.add_right_comm, Nat.add_assoc]
    · rw [haddr, afterTransaction_deviceAddr]

/-- After `n` transactions request `n` is at the head. -/
theorem AfterRun.requests_cons {n : Nat} {s s' : State} {q : Request} (h : AfterRun n s s')
    (hq : s.requests[n]? = some q) : s'.requests = q :: s.requests.drop (n + 1) := by
  obtain ⟨hlt, hget⟩ := List.getElem?_eq_some_iff.mp hq
  rw [h.requests_eq, List.drop_eq_getElem_cons hlt, hget]

theorem step_deviceAddr (s s' : State) (h : step s = .next s') : s'.deviceAddr = s.deviceAddr := by
  cases hs : s.requests with
  | nil => cases (step_of_requests_nil s hs).symm.trans h; rfl
  | cons q rest => obtain ⟨i, -, rfl⟩ := step_next_inv hs h; rfl

/-! ### The obligations -/

/-- Settles O35: the run of the requests before it ends with the request at the head and the same
`DEVICE_ADDR`, so the step after it and the step alone are the same transaction. -/
theorem eachTransactionHasItsResultAlone : Obligations.EachTransactionHasItsResultAlone := by
  intro s alone n q rest hadm hq halone haddr
  obtain ⟨hlt, -⟩ := List.getElem?_eq_some_iff.mp hq
  obtain ⟨s₁, h⟩ := exists_afterRun n s hlt.le fun p hp => hadm p (List.mem_of_mem_take hp)
  obtain ⟨i, hi⟩ := (decode_ok_iff_wf q).mpr (hadm q (List.mem_of_getElem? hq))
  have hstep := step_eq_afterTransaction (h.requests_cons hq) hi
  have hrun := (run_add n 1 s s₁ h.run_eq).trans (run_succ_next 0 s₁ _ hstep)
  refine ⟨_, _, hrun, step_eq_afterTransaction halone hi, ?_, ?_⟩
  · rw [afterTransaction_res, afterTransaction_res, h.deviceAddr_eq, haddr]
  · rw [afterTransaction_t, h.t_eq]

/-- Settles O36: `exists_afterRun` for each number of requests, and for the whole program. -/
theorem admittedProgramRunsToItsEnd : Obligations.AdmittedProgramRunsToItsEnd := by
  intro s hadm
  have hrun (n : Nat) (hn : n ≤ s.requests.length) : ∃ s', AfterRun n s s' :=
    exists_afterRun n s hn fun p hp => hadm p (List.mem_of_mem_take hp)
  constructor
  · intro n hn
    obtain ⟨s', h⟩ := hrun n hn
    exact ⟨s', h.run_eq, h.t_eq⟩
  · obtain ⟨s', h⟩ := hrun _ le_rfl
    exact ⟨s', h.run_eq, by rw [h.requests_eq, List.drop_length], h.t_eq, h.deviceAddr_eq⟩

/-- Settles O37: the run of the admitted requests reaches the reserved one, and the step there is refused. -/
theorem refusalStaysForTheWholeRun : Obligations.RefusalStaysForTheWholeRun := by
  intro s n q why hwf hq hwhy
  obtain ⟨hlt, -⟩ := List.getElem?_eq_some_iff.mp hq
  obtain ⟨s', h⟩ := exists_afterRun n s hlt.le hwf
  refine ⟨⟨s', h.run_eq, h.t_eq⟩, fun m hm => ?_⟩
  obtain ⟨k, rfl⟩ := Nat.exists_eq_add_of_lt hm
  rw [Nat.add_assoc, run_add n (k + 1) s s' h.run_eq]
  exact run_succ_refused k s' _ (step_of_decode_error (h.requests_cons hq) hwhy)

/-- Settles O40, by induction on the run: no step writes `DEVICE_ADDR`. -/
theorem deviceAddrIsFixedForTheRun : Obligations.DeviceAddrIsFixedForTheRun := by
  intro s s' n h
  induction n generalizing s with
  | zero => cases h; rfl
  | succ n ih =>
    cases hstep : step s with
    | next s₁ =>
      rw [run_succ_next n s s₁ hstep] at h
      exact (ih s₁ h).trans (step_deviceAddr s s₁ hstep)
    | fault f => exact nomatch f
    | refused r => cases (run_succ_refused n s r hstep).symm.trans h

end Sys2Proof.Proofs
end

section
/-! SUPPORT. ENCW: which payloads it refuses, and that a write command determines its fields
(40_encoder.md R72 to R78). -/

namespace Sys2Proof.Proofs

open Sys2Proof Sys2Proof.Machine Sys2Proof.Safety

/-! ### The checks of ENCW -/

theorem encodeWrite_of_odd (a r : Byte) (P : List Byte) (hodd : P.length % 2 = 1) :
    encodeWrite a r P = .error .oddPayload := by
  rw [encodeWrite, if_neg (not_maxRegister_lt r), if_pos hodd]

theorem encodeWrite_of_even_of_long (a r : Byte) (P : List Byte) (heven : P.length % 2 = 0)
    (hlong : 255 < P.length) : encodeWrite a r P = .error .payloadTooLarge := by
  rw [encodeWrite, if_neg (not_maxRegister_lt r), if_neg (by omega), maxPayload, if_pos hlong]

/-- What ENCW answers when it accepts: the write command of an even payload of at most 254 bytes. -/
theorem answers_encw_ok_iff (s : State) (r : Byte) (P O : List Byte) :
    Answers (exec (.encw r P) s) .ok O ↔
      P.length % 2 = 0 ∧ P.length ≤ 254 ∧ O = writeCommand s.deviceAddr r P :=
  (answers_ok_iff _ _ _).trans (encodeWrite_ok_iff _ _ _ _)

/-! ### A write command determines its fields -/

/-- The fields of a write command can be read back from it (R78 (e) and (f)). -/
theorem writeCommand_inj {a₁ a₂ r₁ r₂ : Byte} {P₁ P₂ : List Byte}
    (h : writeCommand a₁ r₁ P₁ = writeCommand a₂ r₂ P₂) : a₁ = a₂ ∧ r₁ = r₂ ∧ P₁ = P₂ := by
  have hlen : P₁.length = P₂.length := by
    have := congrArg List.length h
    rw [length_writeCommand, length_writeCommand] at this
    omega
  have hhead : writeHead a₁ r₁ P₁.length = writeHead a₂ r₂ P₂.length := by
    rw [← take_writeCommand, ← take_writeCommand, h]
  have hpayload : P₁ = P₂ := by
    refine List.ext_getElem? fun j => ?_
    by_cases hj : j < P₁.length
    · rw [← getElem?_writeCommand_data a₁ r₁ P₁ j hj, ← getElem?_writeCommand_data a₂ r₂ P₂ j (hlen ▸ hj), h]
    · rw [List.getElem?_eq_none (by omega), List.getElem?_eq_none (by omega)]
  simp only [writeHead, List.cons.injEq] at hhead
  obtain ⟨-, -, -, ha, -, hr, -⟩ := hhead
  exact ⟨ha, hr, hpayload⟩

/-! ### The obligations -/

/-- Settles O8: the definitions, and four evaluations. -/
theorem pairIsTheByteAndItsComplement : Obligations.PairIsTheByteAndItsComplement :=
  ⟨fun _ => ⟨rfl, rfl⟩, rfl, rfl, rfl, rfl⟩

/-- Settles O11: the parity check comes before the bound. -/
theorem encwRejectsOddThenTooLargePayloads : Obligations.EncwRejectsOddThenTooLargePayloads := by
  intro s r P
  simp only [answers_err_iff, codecResult, and_true]
  exact ⟨encodeWrite_of_odd _ r P, encodeWrite_of_even_of_long _ r P⟩

/-- Settles O12: the empty payload has an even length, and its write command is the eleven bytes. -/
theorem encwEncodesTheEmptyPayload : Obligations.EncwEncodesTheEmptyPayload :=
  fun s r => (answers_encw_ok_iff s r _ _).mpr ⟨rfl, Nat.zero_le _, rfl⟩

/-- Settles O15: both frames are write commands, which determine their fields. -/
theorem writeCommandDeterminesRegisterAndPayload : Obligations.WriteCommandDeterminesRegisterAndPayload := by
  intro s₁ s₂ r₁ r₂ P₁ P₂ O h₁ h₂
  obtain ⟨-, -, rfl⟩ := (answers_encw_ok_iff _ _ _ _).mp h₁
  obtain ⟨-, -, h⟩ := (answers_encw_ok_iff _ _ _ _).mp h₂
  obtain ⟨ha, hr, hP⟩ := writeCommand_inj h
  exact ⟨ha, hr, hP, fun j hj => (getElem?_writeCommand_data _ _ _ j hj).symm⟩

end Sys2Proof.Proofs
end

section
/-! SUPPORT. DECR: the first check that fails, and the responses it accepts, which are the write commands of
device address 00 with four payload bytes (30_encoding.md R54, R59; 41_decoder.md R79 to R91). -/

namespace Sys2Proof.Proofs

open Sys2Proof Sys2Proof.Machine Sys2Proof.Safety

/-! ### The first failing check -/

section
variable (r : Byte) (F : List Byte)

/-- A wrong length and a wrong marker are the same error (R80, R81). -/
theorem decodeReadResponse_of_not_frame (h : F.length ≠ 19 ∨ ¬ MarkersOk F) :
    decodeReadResponse r F = .error .invalidFrame := by
  by_cases hF : F.length = 19
  · have hmarkers : ¬ MarkersOk F := h.resolve_left (not_not_intro hF)
    simp [decodeReadResponse, readResponseLength, hF, mt (maskedEq_mFrame_iff r F hF).mp hmarkers]
  · rw [decodeReadResponse, readResponseLength, if_pos hF]

variable (hF : F.length = 19) (hmarkers : MarkersOk F)
include hF hmarkers

theorem decodeReadResponse_of_not_addressOk (haddr : ¬ AddressOk F) :
    decodeReadResponse r F = .error .invalidAddress := by
  simp [decodeReadResponse, readResponseLength, hF, (maskedEq_mFrame_iff r F hF).mpr hmarkers,
    mt (maskedEq_mAddr_iff r F hF).mp haddr]

theorem decodeReadResponse_of_not_echoOk (haddr : AddressOk F) (hecho : ¬ EchoOk r F) :
    decodeReadResponse r F = .error .invalidRegisterEcho := by
  simp [decodeReadResponse, readResponseLength, hF, (maskedEq_mFrame_iff r F hF).mpr hmarkers,
    (maskedEq_mAddr_iff r F hF).mpr haddr, mt (maskedEq_mReg_iff r F hF).mp hecho]

theorem decodeReadResponse_of_not_complementsOk (haddr : AddressOk F) (hecho : EchoOk r F)
    (hcomp : ¬ ComplementsOk F) : decodeReadResponse r F = .error .invalidComplement := by
  rw [decodeReadResponse_eq_checkComplements r F hF hmarkers haddr hecho, checkComplements_error_iff,
    exists_dataPart_eq_iff F hF]
  exact hcomp

end

/-- What an accepted frame has passed: every check, with the data paired in bytes 9–16. -/
theorem checks_of_decodeReadResponse_ok (r : Byte) (F D : List Byte) (h : decodeReadResponse r F = .ok D) :
    F.length = 19 ∧ MarkersOk F ∧ AddressOk F ∧ EchoOk r F ∧ dataPart F = D.flatMap pair := by
  by_cases hF : F.length = 19
  case neg => cases (decodeReadResponse_of_not_frame r F (.inl hF)).symm.trans h
  by_cases hmarkers : MarkersOk F
  case neg => cases (decodeReadResponse_of_not_frame r F (.inr hmarkers)).symm.trans h
  by_cases haddr : AddressOk F
  case neg => cases (decodeReadResponse_of_not_addressOk r F hF hmarkers haddr).symm.trans h
  by_cases hecho : EchoOk r F
  case neg => cases (decodeReadResponse_of_not_echoOk r F hF hmarkers haddr hecho).symm.trans h
  rw [decodeReadResponse_eq_checkComplements r F hF hmarkers haddr hecho, checkComplements_ok_iff] at h
  exact ⟨hF, hmarkers, haddr, hecho, h⟩

/-! ### The accepted frames -/

/-- A frame with the fixed fields right is the fixed fields around its bytes 9–16. -/
theorem eq_writeHead_append (r : Byte) (F : List Byte) (hF : F.length = 19) (hmarkers : MarkersOk F)
    (haddr : AddressOk F) (hecho : EchoOk r F) : F = writeHead 0x00 r 4 ++ (dataPart F ++ [0xAA, 0xAA]) := by
  induction F, hF using forall_of_length_eq_19 with
  | h =>
    simp only [MarkersOk, AddressOk, EchoOk, List.drop_succ_cons, List.drop_zero, List.take_succ_cons,
      List.take_zero, List.cons.injEq, and_true] at hmarkers haddr hecho
    simp [writeHead, dataPart, hmarkers, haddr, hecho]

/-- The well-formed read response of R54 is the write command of R51 from device address 00 (R59). -/
theorem readResponse_eq_writeCommand (r d0 d1 d2 d3 : Byte) :
    readResponse r d0 d1 d2 d3 = writeCommand 0x00 r [d0, d1, d2, d3] := by
  simp [readResponse, writeCommand_eq, writeHead, pair, comp]

theorem decodeReadResponse_readResponse (r d0 d1 d2 d3 : Byte) :
    decodeReadResponse r (readResponse r d0 d1 d2 d3) = .ok [d0, d1, d2, d3] := by
  rw [decodeReadResponse_eq_checkComplements r (readResponse r d0 d1 d2 d3) rfl ⟨rfl, rfl, rfl⟩ rfl rfl]
  exact (checkComplements_ok_iff _ _).mpr rfl

/-- DECR accepts exactly the write commands of its register from device address 00 with four bytes (R59). -/
theorem decodeReadResponse_ok_iff (r : Byte) (F D : List Byte) :
    decodeReadResponse r F = .ok D ↔ D.length = 4 ∧ F = writeCommand 0x00 r D := by
  constructor
  · intro h
    obtain ⟨hF, hmarkers, haddr, hecho, hD⟩ := checks_of_decodeReadResponse_ok r F D h
    have hlen : D.length = 4 := by
      have := length_dataPart F hF
      rw [hD, length_flatMap_pair] at this
      omega
    refine ⟨hlen, ?_⟩
    rw [writeCommand_eq, hlen, ← hD]
    exact eq_writeHead_append r F hF hmarkers haddr hecho
  · rintro ⟨hlen, rfl⟩
    obtain ⟨d0, d1, d2, d3, rfl⟩ := List.length_eq_four.mp hlen
    rw [← readResponse_eq_writeCommand, decodeReadResponse_readResponse]

theorem answers_decr_ok_iff (s : State) (r : Byte) (F D : List Byte) :
    Answers (exec (.decr r F) s) .ok D ↔ D.length = 4 ∧ F = writeCommand 0x00 r D :=
  (answers_ok_iff _ _ _).trans (decodeReadResponse_ok_iff _ _ _)

/-- The accepted frames of a register, one for each four bytes of data. -/
theorem setOf_accepted_eq_range (s : State) (r : Byte) :
    {F : List Byte | ∃ data, Answers (exec (.decr r F) s) .ok data} =
      Set.range fun D : List.Vector Byte 4 => writeCommand 0x00 r D.toList := by
  ext F
  simp only [Set.mem_ofPred_eq, answers_decr_ok_iff, Set.mem_range]
  constructor
  · rintro ⟨D, hlen, hF⟩
    exact ⟨⟨D, hlen⟩, hF.symm⟩
  · rintro ⟨D, hF⟩
    exact ⟨D.toList, D.toList_length, hF.symm⟩

theorem ncard_accepted (s : State) (r : Byte) :
    Set.ncard {F : List Byte | ∃ data, Answers (exec (.decr r F) s) .ok data} = 2 ^ 32 := by
  rw [setOf_accepted_eq_range, Set.ncard_range_of_injective]
  · rw [Nat.card_eq_fintype_card, card_vector, ← FinEnum.card_eq_fintypeCard, FinEnum.card_bitVec, ← Nat.pow_mul]
  · intro D₁ D₂ h
    obtain ⟨-, -, hD⟩ := writeCommand_inj h
    exact List.Vector.toList_injective hD

/-! ### The masked comparison, position by position -/

theorem getElem?_masked (F M : List Byte) (i : Nat) :
    (masked F M)[i]? = F[i]?.bind fun f => M[i]?.map (f &&& ·) := by
  rw [masked, List.getElem?_zipWith', Option.bind_map]; rfl

theorem length_of_mem_masks {M : List Byte} (hM : M ∈ [mFrame, mAddr, mReg]) : M.length = 19 := by
  revert M
  decide

/-! ### One changed byte -/

/-- The markers as three fields of the frame. -/
theorem markersOk_iff_fields (F : List Byte) (hF : F.length = 19) :
    MarkersOk F ↔ (F.drop 0).take 3 = [0x52, 0x52, 0x52] ∧ (F.drop 7).take 2 = [0x04, 0xFB] ∧
      (F.drop 17).take 2 = [0xAA, 0xAA] := by
  rw [MarkersOk, List.drop_zero, List.take_of_length_le (l := F.drop 17) (by simp [hF])]

section
variable {F : List Byte} {n : Nat} {f : Byte → Byte} (hf : ∀ v, f v ≠ v)
include hf

/-- The field of `k` bytes at `p` still is what it was exactly when the changed byte is not in it. -/
theorem field_modify_eq_iff {p k : Nat} {c : List Byte} (hn : n < F.length) (hc : (F.drop p).take k = c) :
    ((F.modify n f).drop p).take k = c ↔ n < p ∨ p + k ≤ n := by
  subst hc
  constructor
  · intro h
    by_contra hin
    have hbyte := congrArg (·[n - p]?) h
    simp [show n - p < k by omega, show p + (n - p) = n by omega, hn, hf] at hbyte
  · intro hout
    refine List.ext_getElem? fun i => ?_
    by_cases hi : i < k
    · simp [hi, show n ≠ p + i by omega]
    · simp [hi]

variable (hF : F.length = 19) (hn : n < 19)
include hF hn

theorem markersOk_modify_iff (h : MarkersOk F) :
    MarkersOk (F.modify n f) ↔ n ∉ [0, 1, 2, 7, 8, 17, 18] := by
  have hlen : n < F.length := hF ▸ hn
  obtain ⟨hsync, hlength, hterm⟩ := (markersOk_iff_fields F hF).mp h
  rw [markersOk_iff_fields _ (by simpa using hF), field_modify_eq_iff hf hlen hsync,
    field_modify_eq_iff hf hlen hlength, field_modify_eq_iff hf hlen hterm]
  simp
  omega

theorem addressOk_modify_iff (h : AddressOk F) : AddressOk (F.modify n f) ↔ n ∉ [3, 4] := by
  rw [AddressOk, field_modify_eq_iff hf (hF ▸ hn) h]
  simp
  omega

theorem echoOk_modify_iff {r : Byte} (h : EchoOk r F) : EchoOk r (F.modify n f) ↔ n ∉ [5, 6] := by
  rw [EchoOk, field_modify_eq_iff hf (hF ▸ hn) h]
  simp
  omega

end

/-- A pair of which one byte changed is no pair. -/
theorem not_pairAt_modify {F : List Byte} {p n : Nat} {m : Byte} (hm : m ≠ 0#8) (h : PairAt F p)
    (hn : n = p ∨ n = p + 1) : ¬ PairAt (F.modify n (· ^^^ m)) p := by
  obtain ⟨v, hv, hc⟩ := h
  rintro ⟨v', hv', hc'⟩
  rcases hn with rfl | rfl
  · have hval : v ^^^ m = v' := by simpa [hv] using hv'
    have hsame : v = v' := by simpa [hc] using hc'
    exact hm (by simpa [← hsame] using hval)
  · have hsame : v = v' := by simpa [hv] using hv'
    exact hm (by simpa [hc, hsame] using hc')

/-! ### The obligations -/

/-- Settles O21: one lemma per check, in the order of the checks. -/
theorem decrReportsTheFirstFailingCheck : Obligations.DecrReportsTheFirstFailingCheck := by
  intro s r F
  simp only [answers_err_iff, codecResult, and_true]
  refine ⟨decodeReadResponse_of_not_frame r F, decodeReadResponse_of_not_addressOk r F,
    decodeReadResponse_of_not_echoOk r F, decodeReadResponse_of_not_complementsOk r F, ?_⟩
  intro hF hmarkers haddr hecho hcomp
  obtain ⟨D, hD, -⟩ := decrReturnsTheDataBytesInFrameOrder s r F hF hmarkers haddr hecho hcomp
  exact ⟨D, hD⟩

/-- Settles O17: the markers are checked first. -/
theorem decrMarkerMismatchIsInvalidFrame : Obligations.DecrMarkerMismatchIsInvalidFrame :=
  fun _ r F _ hmarkers =>
    (answers_err_iff _ _ _ _).mpr ⟨decodeReadResponse_of_not_frame r F (.inr hmarkers), rfl⟩

/-- Settles O18: the address is checked after the markers, and no later check gives its error. -/
theorem decrAddressMismatchIsInvalidAddress : Obligations.DecrAddressMismatchIsInvalidAddress := by
  intro s r F hF hmarkers
  simp only [answers_err_iff, codecResult, and_true]
  refine ⟨decodeReadResponse_of_not_addressOk r F hF hmarkers, fun haddr data h => ?_⟩
  by_cases hecho : EchoOk r F
  · rw [decodeReadResponse_eq_checkComplements r F hF hmarkers haddr hecho] at h
    cases checkComplements_error _ _ h.1
  · cases (decodeReadResponse_of_not_echoOk r F hF hmarkers haddr hecho).symm.trans h.1

/-- Settles O16: a well-formed response passes every check, and its bytes 9–16 are the pairing of its data. -/
theorem decrRecoversTheDataOfAWellFormedResponse : Obligations.DecrRecoversTheDataOfAWellFormedResponse :=
  fun _ r d0 d1 d2 d3 => (answers_ok_iff _ _ _).mpr (decodeReadResponse_readResponse r d0 d1 d2 d3)

/-- Settles O22: the accepted frames are the write commands from device address 00 with four bytes, one for
each of the 2^32 payloads; what is not accepted has one of DECR's errors. -/
theorem decrAcceptsExactlyTheWellFormedResponses : Obligations.DecrAcceptsExactlyTheWellFormedResponses := by
  intro s r
  refine ⟨fun F data => ?_, ncard_accepted s r, fun F hF => ?_⟩
  · rw [answers_decr_ok_iff]
    constructor
    · rintro ⟨hlen, rfl⟩
      obtain ⟨d0, d1, d2, d3, rfl⟩ := List.length_eq_four.mp hlen
      exact ⟨d0, d1, d2, d3, (readResponse_eq_writeCommand r d0 d1 d2 d3).symm, rfl⟩
    · rintro ⟨d0, d1, d2, d3, rfl, rfl⟩
      exact ⟨rfl, readResponse_eq_writeCommand r d0 d1 d2 d3⟩
  · cases h : decodeReadResponse r F with
    | ok D => exact absurd ⟨D, (answers_ok_iff _ _ _).mpr h⟩ hF
    | error kind =>
      exact ⟨kind, decodeReadResponse_error r F kind h, (answers_err_iff _ _ _ _).mpr ⟨h, rfl⟩⟩

/-- Settles O44: DECR accepts a write command exactly when its fields are those of a response. -/
theorem writeCommandPassesAsResponseExactlyFromMaster :
    Obligations.WriteCommandPassesAsResponseExactlyFromMaster := by
  intro s r expected P O data hO
  obtain ⟨-, -, rfl⟩ := (answers_encw_ok_iff s r P O).mp hO
  rw [answers_decr_ok_iff]
  constructor
  · rintro ⟨hlen, h⟩
    obtain ⟨ha, hr, rfl⟩ := writeCommand_inj h
    exact ⟨ha, hlen, hr.symm, rfl⟩
  · rintro ⟨ha, hlen, rfl, rfl⟩
    exact ⟨hlen, by rw [ha]⟩

/-- Settles O24: both sides of the comparison have 19 bytes, which are the masked bytes. -/
theorem maskedComparisonIsPerPosition : Obligations.MaskedComparisonIsPerPosition := by
  intro r F M hF hM
  have hlen := length_of_mem_masks hM
  simp only [maskedEq, beq_iff_eq, ← getElem?_masked]
  constructor
  · exact fun h i _ => congrArg (·[i]?) h
  · intro h
    refine List.ext_getElem? fun i => ?_
    by_cases hi : i < 19
    · exact h i hi
    · rw [List.getElem?_eq_none (by simp [masked, hF, hlen]; omega),
        List.getElem?_eq_none (by simp [masked, length_template, hlen]; omega)]

/-- Settles O23: the changed bit spoils exactly the field it is in, and the fields checked before it are as
they were. -/
theorem singleBitFlipIsRejectedByField : Obligations.SingleBitFlipIsRejectedByField := by
  intro s r F data n b hn hb h
  obtain ⟨hF, hmarkers, haddr, hecho, hpairs⟩ :=
    checks_of_decodeReadResponse_ok r F data ((answers_ok_iff _ _ _).mp h)
  have hcomp : ComplementsOk F := (exists_dataPart_eq_iff F hF).mp ⟨data, hpairs⟩
  have hbit : 1#8 <<< b ≠ 0#8 := (by decide : ∀ b < 8, 1#8 <<< b ≠ 0#8) b hb
  have hflip (v : Byte) : v ^^^ (1#8 <<< b) ≠ v := by simpa using hbit
  have hlen : (F.modify n (· ^^^ (1#8 <<< b))).length = 19 := by simpa using hF
  refine (answers_err_iff _ _ _ _).mpr ⟨?_, rfl⟩
  have hmarkers' := markersOk_modify_iff hflip hF hn hmarkers
  have haddr' := addressOk_modify_iff hflip hF hn haddr
  have hecho' := echoOk_modify_iff hflip hF hn hecho
  split_ifs with hm ha he
  · exact decodeReadResponse_of_not_frame _ _ (.inr fun hok => hmarkers'.mp hok hm)
  · exact decodeReadResponse_of_not_addressOk _ _ hlen (hmarkers'.mpr hm) fun hok => haddr'.mp hok ha
  · exact decodeReadResponse_of_not_echoOk _ _ hlen (hmarkers'.mpr hm) (haddr'.mpr ha)
      fun hok => hecho'.mp hok he
  · refine decodeReadResponse_of_not_complementsOk _ _ hlen (hmarkers'.mpr hm) (haddr'.mpr ha)
      (hecho'.mpr he) fun hok => ?_
    simp only [List.mem_cons, List.not_mem_nil, or_false, not_or] at hm ha he
    have hk : (n - 9) / 2 < 4 := by omega
    exact not_pairAt_modify hbit (hcomp _ hk) (by omega) (hok _ hk)

/-- Settles O25: the masks, position by position. -/
theorem masksAreDisjointAndCoverTheFixedFields : Obligations.MasksAreDisjointAndCoverTheFixedFields := by
  unfold Obligations.MasksAreDisjointAndCoverTheFixedFields
  decide

end Sys2Proof.Proofs
end

section
/-! SUPPORT. The layouts of the frames the block builds and accepts, in the terms of the claims; the legality
of every result; the errors of each operation and their codes (30_encoding.md R49 to R55, 60_exceptions.md
R93). -/

namespace Sys2Proof.Proofs

open Sys2Proof Sys2Proof.Machine Sys2Proof.Safety

/-! ### Complement pairs in the built frames -/

theorem pairAt_of_getElem? {O : List Byte} {p : Nat} {v : Byte} (hv : O[p]? = some v)
    (hc : O[p + 1]? = some (v ^^^ 0xFF)) : PairAt O p := ⟨v, hv, hc⟩

/-- A byte that is repeated is followed by no complement of its own. -/
theorem not_pairAt_of_repeated {O : List Byte} {p : Nat} {v : Byte} (hv : O[p]? = some v)
    (hv' : O[p + 1]? = some v) : ¬ PairAt O p := by
  rintro ⟨w, hw, hc⟩
  cases hv.symm.trans hw
  have hself : v ^^^ 0xFF = v := Option.some.inj (hc.symm.trans hv')
  simp at hself

section
variable (a r : Byte)

theorem pairAt_encodeRead : PairAt (encodeRead a r) 3 ∧ PairAt (encodeRead a r) 5 :=
  ⟨pairAt_of_getElem? rfl rfl, pairAt_of_getElem? rfl rfl⟩

theorem not_pairAt_encodeRead :
    ¬ PairAt (encodeRead a r) 0 ∧ ¬ PairAt (encodeRead a r) 1 ∧ ¬ PairAt (encodeRead a r) 7 :=
  ⟨not_pairAt_of_repeated rfl rfl, not_pairAt_of_repeated rfl rfl, not_pairAt_of_repeated rfl rfl⟩

theorem readCommandFrame_encodeRead : ReadCommandFrame a (encodeRead a r) :=
  ⟨rfl, rfl, rfl, (pairAt_encodeRead a r).1, (pairAt_encodeRead a r).2, rfl⟩

variable (P : List Byte)

theorem pairAt_writeCommand_head :
    PairAt (writeCommand a r P) 3 ∧ PairAt (writeCommand a r P) 5 ∧ PairAt (writeCommand a r P) 7 :=
  ⟨pairAt_of_getElem? rfl rfl, pairAt_of_getElem? rfl rfl, pairAt_of_getElem? rfl rfl⟩

theorem pairAt_writeCommand_data (j : Nat) (hj : j < P.length) : PairAt (writeCommand a r P) (9 + 2 * j) := by
  refine pairAt_of_getElem? (v := P[j]) ?_ ?_
  · rw [getElem?_writeCommand_data a r P j hj, List.getElem?_eq_getElem hj]
  · rw [Nat.add_right_comm, getElem?_writeCommand_complement a r P j hj, List.getElem?_eq_getElem hj]
    rfl

theorem getElem?_writeCommand_terminator (k : Nat) :
    (writeCommand a r P)[9 + 2 * P.length + k]? = ([0xAA, 0xAA] : List Byte)[k]? := by
  rw [← drop_writeCommand a r P, List.getElem?_drop]

theorem not_pairAt_writeCommand :
    ¬ PairAt (writeCommand a r P) 0 ∧ ¬ PairAt (writeCommand a r P) 1 ∧
      ¬ PairAt (writeCommand a r P) (9 + 2 * P.length) :=
  ⟨not_pairAt_of_repeated rfl rfl, not_pairAt_of_repeated rfl rfl,
    not_pairAt_of_repeated (getElem?_writeCommand_terminator a r P 0) (getElem?_writeCommand_terminator a r P 1)⟩

theorem writeCommandFrame_writeCommand : WriteCommandFrame a P.length (writeCommand a r P) := by
  obtain ⟨h3, h5, h7⟩ := pairAt_writeCommand_head a r P
  exact ⟨length_writeCommand a r P, rfl, rfl, rfl, h3, h5, h7, pairAt_writeCommand_data a r P,
    drop_writeCommand a r P⟩

end

theorem decodeWriteResponse_ok_iff (F D : List Byte) :
    decodeWriteResponse F = .ok D ↔ F = [0x11, 0x11, 0x11] ∧ D = [] := by
  by_cases hF : F = [0x11, 0x11, 0x11]
  · rw [hF, decodeWriteResponse_acknowledge, Except.ok.injEq, eq_comm, iff_and_self]
    exact fun _ => rfl
  · rw [decodeWriteResponse_of_ne F hF]
    exact ⟨nofun, fun h => absurd h.1 hF⟩

/-! ### Every result is legal -/

theorem legalResponse_responseOf (a : Byte) (i : Instr) : LegalResponse a (responseOf a i) := by
  rw [responseOf]
  cases h : codecResult a i with
  | error kind => exact ⟨fun hkind => codecResult_ne_invalidParameter a i (hkind ▸ h), rfl⟩
  | ok data =>
    cases i with
    | encr reg =>
      cases h
      exact .inr (.inr (.inl (readCommandFrame_encodeRead a reg)))
    | encw reg payload =>
      obtain ⟨heven, hle, rfl⟩ := (encodeWrite_ok_iff a reg payload data).mp h
      exact .inr (.inr (.inr ⟨payload.length, heven, hle, writeCommandFrame_writeCommand a reg payload⟩))
    | decr reg frame => exact .inr (.inl ((decodeReadResponse_ok_iff reg frame data).mp h).1)
    | decw frame => exact .inl ((decodeWriteResponse_ok_iff frame data).mp h).2

theorem inv_afterTransaction (i : Instr) (rest : List Request) (s : State) : Inv (afterTransaction i rest s) := by
  intro resp hresp
  cases hresp
  exact legalResponse_responseOf s.deviceAddr i

/-! ### The obligations -/

/-- Settles O38: an idle step keeps the result it finds, and a transaction delivers a legal one. -/
theorem stepKeepsTheResultLegal : Obligations.StepKeepsTheResultLegal := by
  intro s s' hinv hstep
  cases hs : s.requests with
  | nil => cases (step_of_requests_nil s hs).symm.trans hstep; exact hinv
  | cons q rest => obtain ⟨i, -, rfl⟩ := step_next_inv hs hstep; exact inv_afterTransaction i rest s

/-- Settles O39: after reset there is no result. -/
theorem resetResultIsLegal : Obligations.ResetResultIsLegal := fun _ h => nomatch h

/-- Settles O14: ENCR and ENCW deliver their command frames, DECR accepts a write command from device
address 00, and DECW the acknowledge; each byte that is not followed by its complement is repeated. -/
theorem everyFieldIsFollowedByItsComplement : Obligations.EveryFieldIsFollowedByItsComplement := by
  intro s r
  simp only [List.forall_mem_cons, List.not_mem_nil, false_imp_iff, implies_true, and_true]
  refine ⟨fun O h => ?_, fun P O h => ?_, fun F data h => ?_, fun F data h => ?_⟩
  · cases (answers_ok_iff _ _ _).mp h
    exact ⟨pairAt_encodeRead _ r, not_pairAt_encodeRead _ r⟩
  · obtain ⟨-, -, rfl⟩ := (answers_encw_ok_iff _ _ _ _).mp h
    exact ⟨pairAt_writeCommand_head _ r P, pairAt_writeCommand_data _ r P, not_pairAt_writeCommand _ r P⟩
  · obtain ⟨hlen, rfl⟩ := (answers_decr_ok_iff _ _ _ _).mp h
    obtain ⟨h3, h5, h7⟩ := pairAt_writeCommand_head 0x00 r data
    have hdata := pairAt_writeCommand_data 0x00 r data
    have hnot := not_pairAt_writeCommand 0x00 r data
    rw [hlen] at hdata hnot
    exact ⟨⟨h3, h5, h7, hdata 0 (by decide), hdata 1 (by decide), hdata 2 (by decide), hdata 3 (by decide)⟩,
      hnot⟩
  · obtain ⟨rfl, -⟩ := (decodeWriteResponse_ok_iff F data).mp ((answers_ok_iff _ _ _).mp h)
    exact ⟨not_pairAt_of_repeated rfl rfl, not_pairAt_of_repeated rfl rfl⟩

/-- Settles O29: an error answer is the codec's error, whose kinds are known for each operation. -/
theorem eachOperationRaisesOnlyItsOwnErrors : Obligations.EachOperationRaisesOnlyItsOwnErrors := by
  intro s kind data
  simp only [answers_err_iff]
  refine ⟨?_, ?_, ?_, ?_⟩
  · rintro r ⟨h, -⟩
    cases h
  · exact fun r P h => encodeWrite_error _ r P kind h.1
  · exact fun r F h => decodeReadResponse_error r F kind h.1
  · exact fun F h => decodeWriteResponse_error F kind h.1

/-- Settles O28: the code table read in both directions. -/
theorem statusCodesAreTheListedOnes : Obligations.StatusCodesAreTheListedOnes := by
  refine ⟨rfl, ?_, by decide⟩
  rintro (_ | kind)
  · rfl
  · cases kind <;> rfl

end Sys2Proof.Proofs
end
